-- ==== Sys2Proof/Word.lean ====
section
/-! DEFINITION. The word types of the block (00_scope.md R10) and the receiver's state names (10_state.md R24). -/
namespace Sys2Proof

/-- `byte8` of R10. -/
abbrev Byte := BitVec 8
/-- A binary32 value, as its 32 bits (R15). -/
abbrev Binary32 := BitVec 32
/-- A two's-complement 32-bit integer, `i32` of R10; its value is `BitVec.toInt`. -/
abbrev I32 := BitVec 32

end Sys2Proof
end

