-- ==== Sys2Proof/Config.lean ====
section
/-! DEFINITION. The parameter set of 00_scope.md R7, the reference instantiation P_REF, the telemetry
record and its layout (10_state.md R31, R33), the two encoding levels of 30_encoding.md, and the free values. -/
namespace Sys2Proof

/-! ## Values the source fixes (R7, R9) -/

/-- `CRC_POLY`, R7. -/
def crcPoly : BitVec 16 := 0x1021
/-- `CRC_INIT`, R7. -/
def crcInit : BitVec 16 := 0x0000
/-- `CRC_XOROUT`, R7 (the spec's decision D4). -/
def crcXorOut : BitVec 16 := 0x0000
/-- `SHORT_LIMIT`, R7: the smallest length that takes the 2-byte length field. -/
def shortLimit : Nat := 256
/-- `MAX_PAYLOAD`, R7. -/
def maxPayload : Nat := 65535

/-! ## The telemetry record -/

/-- The nine fields of the telemetry record, in the source's order (R31). -/
inductive TelemField where
  | avgMotorCurrent | avgInputCurrent | dutyCycleNow | rpm | inpVoltage
  | ampHours | ampHoursCharged | tachometer | tachometerAbs
  deriving DecidableEq, Repr

/-- The raw signed wire integers of one telemetry record (R31, decision D24). -/
structure Telem where
  avgMotorCurrent : BitVec 32
  avgInputCurrent : BitVec 32
  dutyCycleNow    : BitVec 16
  rpm             : BitVec 32
  inpVoltage      : BitVec 16
  ampHours        : BitVec 32
  ampHoursCharged : BitVec 32
  tachometer      : BitVec 32
  tachometerAbs   : BitVec 32
  deriving DecidableEq, Repr

/-- `TELEM_LAYOUT`: the payload offset of each field's first byte (R33). -/
structure Layout where
  avgMotorCurrent : Nat
  avgInputCurrent : Nat
  dutyCycleNow    : Nat
  rpm             : Nat
  inpVoltage      : Nat
  ampHours        : Nat
  ampHoursCharged : Nat
  tachometer      : Nat
  tachometerAbs   : Nat
  deriving DecidableEq, Repr

/-- `CONTIGUOUS` (R33). -/
def Layout.contiguous : Layout := ⟨1, 5, 9, 11, 15, 17, 21, 25, 29⟩
/-- `VESC_GAPPED` (93_implementation_defined.md I5), a second allowed value of the parameter. -/
def Layout.vescGapped : Layout := ⟨5, 9, 21, 23, 27, 29, 33, 45, 49⟩

/-- A telemetry field as a number (44_telemetry_decoder.md R224): the `i32` raw value of a scale-1 field, the
binary32 value of a fixed-point one. -/
inductive TelemNumber where
  | int (v : I32)
  | float (v : Binary32)
  deriving DecidableEq, Repr

/-! ## The parameter set -/

/-- The instantiation parameters of R7 that are not fixed by the source. They are read-only after
instantiation (10_state.md R35); State carries them so that every claim about all states is a claim about
every instantiation. -/
structure Params where
  rxMaxPayload : Nat
  markerA : Byte
  markerB : Byte
  markerStop : Byte
  rxTimeout : Nat
  idGetValues : Byte
  idSetDuty : Byte
  idSetCurrent : Byte
  idSetCurrentBrake : Byte
  idSetRpm : Byte
  idForward : Byte
  idSetChuckData : Byte
  idPingCan : Byte
  idOpenloop : Byte
  idStop : Byte
  currentScale : Nat
  brakeScale : Nat
  dutyScale : Nat
  openloopCurrentScale : Nat
  joyPadBytes : Nat
  layout : Layout
  checkResponseId : Bool
  deriving DecidableEq, Repr

/-- The reference instantiation `P_REF`, the last column of R7. -/
def Params.pRef : Params where
  rxMaxPayload := 65535
  markerA := 0x02
  markerB := 0x03
  markerStop := 0x03
  rxTimeout := 100
  idGetValues := 0x04
  idSetDuty := 0x05
  idSetCurrent := 0x06
  idSetCurrentBrake := 0x07
  idSetRpm := 0x08
  idForward := 0x22
  idSetChuckData := 0x23
  idPingCan := 0x3E
  idOpenloop := 0xF0
  idStop := 0xF1
  currentScale := 100
  brakeScale := 100
  dutyScale := 1000
  openloopCurrentScale := 100
  joyPadBytes := 6
  layout := .contiguous
  checkResponseId := true

/-! ## Encoding levels -/

/-- Where a unit of the opcode table is presented: the host operation port, or the byte link, where it is a
frame, a payload carried by a frame, or a reply payload carried by a frame (the `format` column of
spec/opcode_table.json: HOSTOP, WIRE_FRAME, WIRE_PAYLOAD, WIRE_REPLY). -/
inductive Channel where
  | host | frame | payload | reply
  deriving DecidableEq, Repr

/-! ## Free values -/

/-- The count the transmit sink offers to accept at its `n`-th unscripted write (20_memory.md R57, 93 U7): free.
notes/assumptions/5.md. -/
opaque Config.freeSinkCount : Nat → Nat

/-- What an `RXBUF` byte that nothing has written reads as (10_state.md R27, 93 U4): free.
notes/assumptions/6.md. -/
opaque Config.freeBufferByte : Nat → Byte

end Sys2Proof
end

