-- ==== Sys2Proof/Machine/Operands.lean ====
section
/-! DEFINITION. Operand assembly, in every form the spec gives: byte order (00_scope.md R11), fixed-point fields
(43_command_codec.md R180), inbound fields (30_encoding.md R84), the float view (44_telemetry_decoder.md R224), the
telemetry layout (10_state.md R33), and the parameter constraints (00_scope.md R8). -/
namespace Sys2Proof

/-! ## The telemetry fields and their layout -/

/-- All nine, in order. -/
def TelemField.all : List TelemField :=
  [.avgMotorCurrent, .avgInputCurrent, .dutyCycleNow, .rpm, .inpVoltage,
   .ampHours, .ampHoursCharged, .tachometer, .tachometerAbs]

/-- A field's width on the wire in bytes (R31, R9). -/
def TelemField.bytes : TelemField → Nat
  | .dutyCycleNow | .inpVoltage => 2
  | .avgMotorCurrent | .avgInputCurrent | .rpm | .ampHours | .ampHoursCharged | .tachometer | .tachometerAbs => 4

/-- A field's scale (R31). -/
def TelemField.scale : TelemField → Nat
  | .avgMotorCurrent | .avgInputCurrent => 100
  | .dutyCycleNow => 1000
  | .inpVoltage => 10
  | .ampHours | .ampHoursCharged => 10000
  | .rpm | .tachometer | .tachometerAbs => 1

/-- The offset the layout gives a field. -/
def Layout.offset (L : Layout) : TelemField → Nat
  | .avgMotorCurrent => L.avgMotorCurrent
  | .avgInputCurrent => L.avgInputCurrent
  | .dutyCycleNow => L.dutyCycleNow
  | .rpm => L.rpm
  | .inpVoltage => L.inpVoltage
  | .ampHours => L.ampHours
  | .ampHoursCharged => L.ampHoursCharged
  | .tachometer => L.tachometer
  | .tachometerAbs => L.tachometerAbs

/-- `TELEM_MIN_LEN`: one more than the highest byte index any field uses (R33). -/
def Layout.minLen (L : Layout) : Nat :=
  (TelemField.all.map fun f => L.offset f + f.bytes).foldr max 0

/-- Two fields share no byte. -/
def Layout.apart (L : Layout) (f g : TelemField) : Bool :=
  L.offset f + f.bytes ≤ L.offset g || L.offset g + g.bytes ≤ L.offset f

/-- R8: every field wholly at offsets `>= 1` and no two fields overlap. -/
def Layout.valid (L : Layout) : Bool :=
  TelemField.all.all (fun f => 1 ≤ L.offset f) &&
  TelemField.all.all (fun f => TelemField.all.all fun g => f = g || L.apart f g)

/-! ## Parameter constraints -/

/-- The identifiers the command operations put inside an envelope (43_command_codec.md R183, R185 to R191). -/
def Params.innerIds (P : Params) : List Byte :=
  [P.idGetValues, P.idSetDuty, P.idSetCurrent, P.idSetCurrentBrake, P.idSetRpm, P.idSetChuckData,
   P.idOpenloop, P.idStop]

/-- The constraints of R8. DEDUCED: "every other `ID_*` used as an inner command" is read as `innerIds`, the
eight an addressed command operation wraps (notes/assumptions/21.md; unsafe only for a claim that an envelope's
identifier differs from the scan identifier). -/
def Params.valid (P : Params) : Bool :=
  P.markerA ≠ P.markerB &&
  1 ≤ P.rxMaxPayload && P.rxMaxPayload ≤ 65535 &&
  1 ≤ P.currentScale && 1 ≤ P.brakeScale && 1 ≤ P.dutyScale && 1 ≤ P.openloopCurrentScale &&
  P.innerIds.all (fun i => i ≠ P.idForward) &&
  P.layout.valid

/-- The outbound payload identifiers are pairwise different, so that a payload's first byte names its format.
R8 does not ask for it; P_REF has it. -/
def Params.idsDistinct (P : Params) : Bool :=
  decide (List.Nodup (P.idForward :: P.idPingCan :: P.innerIds))

/-! ## Operation codes -/

/-- The operation map of 30_encoding.md R71: the thirty legal codes. -/
def legalCodes : List Byte :=
  [0x01, 0x02, 0x03, 0x04, 0x10, 0x11, 0x20, 0x21,
   0x30, 0x31, 0x32, 0x33, 0x34, 0x35, 0x36, 0x37, 0x38, 0x3F,
   0x40, 0x41, 0x42,
   0x50, 0x51, 0x52, 0x53, 0x54, 0x55, 0x56, 0x57, 0x58]

namespace Machine

/-! ## Byte order (R11, R51): big-endian throughout -/

/-- `be16(v)`, R11. -/
def be16 (v : BitVec 16) : List Byte := [v.extractLsb' 8 8, v.extractLsb' 0 8]
/-- `be32(v)`, R11. -/
def be32 (v : BitVec 32) : List Byte :=
  [v.extractLsb' 24 8, v.extractLsb' 16 8, v.extractLsb' 8 8, v.extractLsb' 0 8]
/-- The 16-bit value of two bytes, most significant first. -/
def ofBe16 (b0 b1 : Byte) : BitVec 16 := b0 ++ b1
/-- The 32-bit value of four bytes, most significant first. -/
def ofBe32 (b0 b1 b2 b3 : Byte) : BitVec 32 := b0 ++ b1 ++ b2 ++ b3

/-- `s[i]`. Every rule that reads a field first checks the length (R54), so the value past the end, 0 here, is
never used. -/
def byteAt (s : List Byte) (i : Nat) : Byte := s.getD i 0
/-- `getbe16(s, o)`, R11. -/
def getbe16 (s : List Byte) (o : Nat) : BitVec 16 := ofBe16 (byteAt s o) (byteAt s (o + 1))
/-- `getbe32(s, o)`, R11. -/
def getbe32 (s : List Byte) (o : Nat) : BitVec 32 :=
  ofBe32 (byteAt s o) (byteAt s (o + 1)) (byteAt s (o + 2)) (byteAt s (o + 3))

/-! ## Numbers (R15) -/

/-- `finite(x)`, R15: neither an infinity nor a NaN. -/
def finite (v : Binary32) : Bool := v.extractLsb' 23 8 ≠ 0xFF#8

/-- `real(v) * 2^149` of a finite binary32, an integer because every finite binary32 is a multiple of `2^-149`. -/
def real149 (v : Binary32) : Int :=
  let e := (v.extractLsb' 23 8).toNat
  let f := (v.extractLsb' 0 23).toNat
  let m := if e = 0 then f else 2 ^ 23 + f
  let a := m * 2 ^ (max e 1 - 1)
  if v.msb then -(a : Int) else (a : Int)

/-- `round_half_away(n / d)`, R15, for `d > 0`. -/
def roundHalfAway (n : Int) (d : Nat) : Int :=
  let a := (2 * n.natAbs + d) / (2 * d)
  if n < 0 then -(a : Int) else (a : Int)

/-- `fits_i32(z)`, R15. -/
def fitsI32 (z : Int) : Bool := -(2 ^ 31) ≤ z && z ≤ 2 ^ 31 - 1

/-- `round_half_away(real(v) * k)`, the integer of R180. -/
def scaledInt (v : Binary32) (k : Nat) : Int := roundHalfAway (real149 v * k) (2 ^ 149)

/-- The field `fx(v, k)` of R180, or none where R180 raises `ValueOutOfRange`. -/
def fx (v : Binary32) (k : Nat) : Option (List Byte) :=
  if finite v && fitsI32 (scaledInt v k) then some (be32 (BitVec.ofInt 32 (scaledInt v k))) else none

/-- `trunc_8(x)` of a joystick axis (R83). -/
def axisByte (x : I32) : Byte := x.extractLsb' 0 8
/-- A button's byte (R83). -/
def buttonByte (b : Bool) : Byte := if b then 0x01 else 0x00

/-! ## The float view (R224) -/

/-- Round the quotient `n / d` to the nearest natural number, ties to even. -/
def roundHalfEven (n d : Nat) : Nat :=
  let q := n / d
  let r := n % d
  if 2 * r < d then q else if d < 2 * r then q + 1 else q + q % 2

/-- The exponent of the leading bit of the positive rational `a / d`: the `e` with `2^e ≤ a/d < 2^(e+1)`. -/
def leadExponent (a d : Nat) : Int :=
  let e : Int := (a.log2 : Int) - (d.log2 : Int)
  if d * 2 ^ e.toNat ≤ a * 2 ^ (-e).toNat then e else e - 1

/-- The magnitude bits of `rne32(a / d)`, R15: one rounding, ties to the even significand; subnormal below
`2^-126`, infinity above the range (log 22). -/
def rneMagnitude (a d : Nat) : Nat :=
  if a = 0 then 0 else
    let e := max (leadExponent a d) (-126)
    let q := e - 23
    let m := roundHalfEven (a * 2 ^ (-q).toNat) (d * 2 ^ q.toNat)
    min ((e + 126).toNat * 2 ^ 23 + m) 0x7F800000

/-- `rne32(n / d)` of R15, for `d > 0`. Zero is `+0` (log 22). -/
def rne32 (n : Int) (d : Nat) : Binary32 :=
  let m := BitVec.ofNat 32 (rneMagnitude n.natAbs d)
  if n < 0 then m ||| 0x80000000#32 else m

/-! ## Telemetry fields -/

/-- The nine fields of a payload at the layout's offsets (R84, R223). -/
def telemOfPayload (L : Layout) (p : List Byte) : Telem where
  avgMotorCurrent := getbe32 p L.avgMotorCurrent
  avgInputCurrent := getbe32 p L.avgInputCurrent
  dutyCycleNow := getbe16 p L.dutyCycleNow
  rpm := getbe32 p L.rpm
  inpVoltage := getbe16 p L.inpVoltage
  ampHours := getbe32 p L.ampHours
  ampHoursCharged := getbe32 p L.ampHoursCharged
  tachometer := getbe32 p L.tachometer
  tachometerAbs := getbe32 p L.tachometerAbs

/-- A field's bytes on the wire (R51, R84). -/
def telemFieldBytes (t : Telem) : TelemField → List Byte
  | .avgMotorCurrent => be32 t.avgMotorCurrent
  | .avgInputCurrent => be32 t.avgInputCurrent
  | .dutyCycleNow => be16 t.dutyCycleNow
  | .rpm => be32 t.rpm
  | .inpVoltage => be16 t.inpVoltage
  | .ampHours => be32 t.ampHours
  | .ampHoursCharged => be32 t.ampHoursCharged
  | .tachometer => be32 t.tachometer
  | .tachometerAbs => be32 t.tachometerAbs

/-- The byte of a telemetry reply at index `i`: the identifier at 0, a field's byte where the layout puts one, and
0x00 in a gap (DESIGN CHOICE, notes/assumptions/24.md; safe: no rule reads a gap). -/
def telemReplyByte (id : Byte) (L : Layout) (t : Telem) (i : Nat) : Byte :=
  if i = 0 then id else
    match TelemField.all.find? (fun f => L.offset f ≤ i && i < L.offset f + f.bytes) with
    | some f => byteAt (telemFieldBytes t f) (i - L.offset f)
    | none => 0x00

/-- The inbound telemetry payload of R81: `TELEM_MIN_LEN` bytes. -/
def telemReply (id : Byte) (L : Layout) (t : Telem) : List Byte :=
  (List.range L.minLen).map (telemReplyByte id L t)

/-- The raw signed integer of a field (R31, R84). -/
def telemRaw (t : Telem) : TelemField → Int
  | .avgMotorCurrent => t.avgMotorCurrent.toInt
  | .avgInputCurrent => t.avgInputCurrent.toInt
  | .dutyCycleNow => t.dutyCycleNow.toInt
  | .rpm => t.rpm.toInt
  | .inpVoltage => t.inpVoltage.toInt
  | .ampHours => t.ampHours.toInt
  | .ampHoursCharged => t.ampHoursCharged.toInt
  | .tachometer => t.tachometer.toInt
  | .tachometerAbs => t.tachometerAbs.toInt

/-- What the block gives a host that asks for a field as a number (R224). -/
def telemNumber (t : Telem) (f : TelemField) : TelemNumber :=
  if f.scale = 1 then .int (BitVec.ofInt 32 (telemRaw t f)) else .float (rne32 (telemRaw t f) f.scale)

end Machine
end Sys2Proof
end

