-- ==== Sys2Proof/Machine/Checksum.lean ====
section
/-! DEFINITION. The checksum function of 40_crc.md R100, R101. -/
namespace Sys2Proof.Machine

/-- One of the eight shift-and-conditional-XOR steps of R101. -/
def crcBit (c : BitVec 16) : BitVec 16 :=
  if c.getLsbD 15 then (c <<< 1) ^^^ crcPoly else c <<< 1

/-- `crc_byte(c, b)`, R101: the byte enters at the top, then eight steps, most significant bit first. -/
def crcByte (c : BitVec 16) (b : Byte) : BitVec 16 :=
  crcBit (crcBit (crcBit (crcBit (crcBit (crcBit (crcBit (crcBit (c ^^^ (b.zeroExtend 16 <<< 8)))))))))

/-- The byte iteration of R100 from a register value. -/
def crcFold (c : BitVec 16) (s : List Byte) : BitVec 16 := s.foldl crcByte c

/-- `crc16(s)`, R100. -/
def crc16 (s : List Byte) : BitVec 16 := crcFold crcInit s ^^^ crcXorOut

end Sys2Proof.Machine
end

