-- ==== Sys2Proof/Machine/Formats.lean ====
section
/-! DEFINITION. The wire formats as byte sequences: frames (30_encoding.md R74, R75; 41_frame_encoder.md R120),
payloads (R79), the forwarding envelope (R80), replies (R81, R82). The codec, the wire units and the decoder share them. -/
namespace Sys2Proof.Machine

/-- The start marker and length field of a frame (R120). -/
def frameHeader (P : Params) (n : Nat) : List Byte :=
  if n < shortLimit then [P.markerA, BitVec.ofNat 8 n] else P.markerB :: be16 (BitVec.ofNat 16 n)

/-- `frame(p)`, R120; defined for payloads of at most 65535 bytes, which its callers check. -/
def frame (P : Params) (p : List Byte) : List Byte :=
  frameHeader P p.length ++ p ++ be16 (crc16 p) ++ [P.markerStop]

/-- `[ID_SET_DUTY] [duty i32]`, R79, over the field's bytes. -/
def setDutyPayload (P : Params) (duty : List Byte) : List Byte := P.idSetDuty :: duty
/-- `[ID_SET_CURRENT] [current i32]`, R79. -/
def setCurrentPayload (P : Params) (current : List Byte) : List Byte := P.idSetCurrent :: current
/-- `[ID_SET_CURRENT_BRAKE] [current i32]`, R79. -/
def setBrakePayload (P : Params) (current : List Byte) : List Byte := P.idSetCurrentBrake :: current
/-- `[ID_SET_RPM] [rpm i32]`, R79. -/
def setRpmPayload (P : Params) (rpm : BitVec 32) : List Byte := P.idSetRpm :: be32 rpm
/-- `[ID_OPENLOOP] [current i32] [erpm i32]`, R79. -/
def openloopPayload (P : Params) (current : List Byte) (erpm : BitVec 32) : List Byte :=
  P.idOpenloop :: (current ++ be32 erpm)
/-- `[ID_SET_CHUCK_DATA] [x] [y] [buttonA] [buttonB] [0x00 × JOY_PAD_BYTES]`, R79. -/
def chuckPayload (P : Params) (x y : Byte) (buttonA buttonB : Bool) : List Byte :=
  [P.idSetChuckData, x, y, buttonByte buttonA, buttonByte buttonB] ++ List.replicate P.joyPadBytes 0x00
/-- `[ID_GET_VALUES]`, R79. -/
def getValuesPayload (P : Params) : List Byte := [P.idGetValues]
/-- `[ID_PING_CAN]`, R79. -/
def scanPayload (P : Params) : List Byte := [P.idPingCan]
/-- `[ID_STOP]`, R79. -/
def stopPayload (P : Params) : List Byte := [P.idStop]

/-- The envelope of R80 around an inner payload of at most 255 bytes, which its callers check. -/
def envelope (P : Params) (addr : Byte) (inner : List Byte) : List Byte :=
  [P.idForward, addr, BitVec.ofNat 8 inner.length] ++ inner

/-- The telemetry reply payload, R81. -/
def telemetryReplyPayload (P : Params) (t : Telem) : List Byte := telemReply P.idGetValues P.layout t
/-- The scan reply payload, R82. -/
def scanReplyPayload (P : Params) (addrs : List Byte) : List Byte := P.idPingCan :: addrs

end Sys2Proof.Machine
end

