-- ==== Sys2Proof/Syntax.lean ====
section
/-! DEFINITION. The rows of spec/opcode_table.json: the thirty host operations with their typed argument records
(30_encoding.md R70, R71), the illegal code (R72), and the fourteen wire formats (R74, R75, R79 to R82). -/
namespace Sys2Proof

/-- One constructor per row of spec/opcode_table.json, in the table's order. -/
inductive Instr where
  -- 40_crc.md
  | crcInit
  | crcByte (b : Byte)
  | crcBlock (s : List Byte)
  | crcCheck (s : List Byte) (expected : BitVec 16)
  -- 41_frame_encoder.md
  | frameBuild (payload : List Byte)
  | frameSend (payload : List Byte)
  -- 42_frame_receiver.md
  | rxReceive (deadline : Nat)
  | rxValidate (payload : List Byte) (crc : BitVec 16)
  -- 43_command_codec.md
  | encGetValues (addr : Option Byte)
  | encScan
  | encOpenloop (current : Binary32) (erpm : I32) (addr : Option Byte)
  | encStop (addr : Option Byte)
  | encJoystick (x y : I32) (buttonA buttonB : Bool) (addr : Option Byte)
  | encSetCurrent (current : Binary32) (addr : Option Byte)
  | encSetBrake (current : Binary32) (addr : Option Byte)
  | encSetRpm (rpm : I32) (addr : Option Byte)
  | encSetDuty (duty : Binary32) (addr : Option Byte)
  | fwdWrap (addr : Byte) (inner : List Byte)
  -- 44_telemetry_decoder.md
  | decTelemetry (payload : List Byte)
  | decScanReply (payload : List Byte)
  | readTelemetry
  -- 45_host_operations.md
  | requestTelemetry (addr : Option Byte)
  | scanForControllers
  | sendCurrent (current : Binary32) (addr : Option Byte)
  | sendBrakeCurrent (current : Binary32) (addr : Option Byte)
  | sendRpm (rpm : I32) (addr : Option Byte)
  | sendDuty (duty : Binary32) (addr : Option Byte)
  | sendJoystick (x y : I32) (buttonA buttonB : Bool) (addr : Option Byte)
  | runOpenloop (current : Binary32) (erpm : I32) (addr : Option Byte)
  | stop (addr : Option Byte)
  -- 30_encoding.md R72
  | illegal (code : Byte)
  -- 30_encoding.md R74, R75: a whole frame, its CRC that of its payload
  | frameShort (payload : List Byte)
  | frameLong (payload : List Byte)
  -- 30_encoding.md R79, R80: payloads, their numeric fields the raw wire integers
  | payloadGetValues
  | payloadSetDuty (duty : BitVec 32)
  | payloadSetCurrent (current : BitVec 32)
  | payloadSetCurrentBrake (current : BitVec 32)
  | payloadSetRpm (rpm : BitVec 32)
  | payloadForward (addr : Byte) (inner : List Byte)
  | payloadSetChuckData (x y : Byte) (buttonA buttonB : Bool)
  | payloadPingCan
  | payloadOpenloop (current erpm : BitVec 32)
  | payloadStop
  -- 30_encoding.md R81, R82
  | replyTelemetry (fields : Telem)
  | replyScan (addrs : List Byte)
  deriving DecidableEq, Repr

end Sys2Proof
end

