-- ==== Sys2Proof/WellFormed.lean ====
section
/-! DEFINITION. Which instruction terms stand for a unit the spec's encodings admit. -/
namespace Sys2Proof

/-- Where the unit is presented (the table's `format` column). -/
def Instr.channel : Instr → Channel
  | .crcInit | .crcByte _ | .crcBlock _ | .crcCheck _ _ | .frameBuild _ | .frameSend _ | .rxReceive _ | .rxValidate _ _
  | .encGetValues _ | .encScan | .encOpenloop _ _ _ | .encStop _ | .encJoystick _ _ _ _ _ | .encSetCurrent _ _
  | .encSetBrake _ _ | .encSetRpm _ _ | .encSetDuty _ _ | .fwdWrap _ _ | .decTelemetry _ | .decScanReply _
  | .readTelemetry | .requestTelemetry _ | .scanForControllers | .sendCurrent _ _ | .sendBrakeCurrent _ _
  | .sendRpm _ _ | .sendDuty _ _ | .sendJoystick _ _ _ _ _ | .runOpenloop _ _ _ | .stop _ | .illegal _ => .host
  | .frameShort _ | .frameLong _ => .frame
  | .payloadGetValues | .payloadSetDuty _ | .payloadSetCurrent _ | .payloadSetCurrentBrake _ | .payloadSetRpm _
  | .payloadForward _ _ | .payloadSetChuckData _ _ _ _ | .payloadPingCan | .payloadOpenloop _ _ | .payloadStop => .payload
  | .replyTelemetry _ | .replyScan _ => .reply

/-- The checks the encodings make: an illegal code is not one of R71 (R72); a short frame's payload has fewer than
256 bytes (R74); a long frame's 256 to 65535 (R75); an envelope's inner payload at most 255 (R80). Every other
argument record is admitted whole (R70: byte sequences of any finite length, any binary32, any `i32`). -/
def Instr.wellFormed : Instr → Bool
  | .illegal code => !legalCodes.contains code
  | .frameShort p => p.length < shortLimit
  | .frameLong p => shortLimit ≤ p.length && p.length ≤ maxPayload
  | .payloadForward _ inner => inner.length ≤ 255
  | .crcInit | .crcByte _ | .crcBlock _ | .crcCheck _ _ | .frameBuild _ | .frameSend _ | .rxReceive _ | .rxValidate _ _
  | .encGetValues _ | .encScan | .encOpenloop _ _ _ | .encStop _ | .encJoystick _ _ _ _ _ | .encSetCurrent _ _
  | .encSetBrake _ _ | .encSetRpm _ _ | .encSetDuty _ _ | .fwdWrap _ _ | .decTelemetry _ | .decScanReply _
  | .readTelemetry | .requestTelemetry _ | .scanForControllers | .sendCurrent _ _ | .sendBrakeCurrent _ _
  | .sendRpm _ _ | .sendDuty _ _ | .sendJoystick _ _ _ _ _ | .runOpenloop _ _ _ | .stop _
  | .payloadGetValues | .payloadSetDuty _ | .payloadSetCurrent _ | .payloadSetCurrentBrake _ | .payloadSetRpm _
  | .payloadSetChuckData _ _ _ _ | .payloadPingCan | .payloadOpenloop _ _ | .payloadStop
  | .replyTelemetry _ | .replyScan _ => true

end Sys2Proof
end

