-- ==== Sys2Proof/Decode.lean ====
section
/-! DEFINITION. From bytes to an instruction, and back.

Host port (30_encoding.md R70, R71): one byte of operation code, then the argument record. R70 gives the record as
values, not bits; the bytes it takes at the port are the model's own (DESIGN CHOICE, notes/assumptions/1.md, safe: a
byte is itself, `u16`, binary32 and `i32` are big-endian, a boolean is 0x00 or 0x01, an absent address is 0x00 and a
present one 0x01 and the address, a natural number is base 128 with the low digit first and the top bit of a byte set
where digits follow, a byte sequence is its length as such a number and then its bytes).

Byte link: the formats of R74, R75, R79 to R82 as they are. -/
namespace Sys2Proof
open Machine

/-! ## Reading argument values -/

/-- One byte. -/
def readByte : List Byte → Option (Byte × List Byte)
  | b :: r => some (b, r)
  | [] => none

/-- A 16-bit value. -/
def readWord16 : List Byte → Option (BitVec 16 × List Byte)
  | b0 :: b1 :: r => some (ofBe16 b0 b1, r)
  | _ => none

/-- A 32-bit value. -/
def readWord32 : List Byte → Option (BitVec 32 × List Byte)
  | b0 :: b1 :: b2 :: b3 :: r => some (ofBe32 b0 b1 b2 b3, r)
  | _ => none

/-- A boolean: 0x00 or 0x01 and nothing else. -/
def readBool : List Byte → Option (Bool × List Byte)
  | b :: r => if b = 0x00 then some (false, r) else if b = 0x01 then some (true, r) else none
  | [] => none

/-- An optional address. -/
def readAddr : List Byte → Option (Option Byte × List Byte)
  | b :: r =>
    if b = 0x00 then some (none, r)
    else if b = 0x01 then (readByte r).map (fun (a, r') => (some a, r'))
    else none
  | [] => none

/-- A natural number, base 128, low digit first. -/
def readNat : List Byte → Option (Nat × List Byte)
  | b :: r =>
    if b.toNat < 128 then some (b.toNat, r)
    else (readNat r).map (fun (n, r') => (b.toNat - 128 + 128 * n, r'))
  | [] => none

/-- A given number of bytes. -/
def readRaw (n : Nat) (l : List Byte) : Option (List Byte × List Byte) :=
  if n ≤ l.length then some (l.take n, l.drop n) else none

/-- A byte sequence with its length before it. -/
def readBytes (l : List Byte) : Option (List Byte × List Byte) :=
  (readNat l).bind fun (n, r) => readRaw n r

/-- A given constant byte sequence, read and dropped. -/
def expectBytes (want l : List Byte) : Option (List Byte) :=
  if l.take want.length = want then some (l.drop want.length) else none

/-! ## The decoder -/

/-- The argument record that follows the operation code `op` (R71), and the bytes after it. A code R71 does not list
is `ILLEGAL` and takes no arguments (R72). -/
def decodeHostArgs (op : Byte) (l : List Byte) : Option (Instr × List Byte) :=
  match op.toNat with
  | 0x01 => some (.crcInit, l)
  | 0x02 => (readByte l).map fun (b, l) => (.crcByte b, l)
  | 0x03 => (readBytes l).map fun (s, l) => (.crcBlock s, l)
  | 0x04 => (readBytes l).bind fun (s, l) => (readWord16 l).map fun (e, l) => (.crcCheck s e, l)
  | 0x10 => (readBytes l).map fun (p, l) => (.frameBuild p, l)
  | 0x11 => (readBytes l).map fun (p, l) => (.frameSend p, l)
  | 0x20 => (readNat l).map fun (d, l) => (.rxReceive d, l)
  | 0x21 => (readBytes l).bind fun (p, l) => (readWord16 l).map fun (c, l) => (.rxValidate p c, l)
  | 0x30 => (readAddr l).map fun (a, l) => (.encGetValues a, l)
  | 0x31 => some (.encScan, l)
  | 0x32 => (readWord32 l).bind fun (c, l) => (readWord32 l).bind fun (e, l) =>
      (readAddr l).map fun (a, l) => (.encOpenloop c e a, l)
  | 0x33 => (readAddr l).map fun (a, l) => (.encStop a, l)
  | 0x34 => (readWord32 l).bind fun (x, l) => (readWord32 l).bind fun (y, l) => (readBool l).bind fun (p, l) =>
      (readBool l).bind fun (q, l) => (readAddr l).map fun (a, l) => (.encJoystick x y p q a, l)
  | 0x35 => (readWord32 l).bind fun (c, l) => (readAddr l).map fun (a, l) => (.encSetCurrent c a, l)
  | 0x36 => (readWord32 l).bind fun (c, l) => (readAddr l).map fun (a, l) => (.encSetBrake c a, l)
  | 0x37 => (readWord32 l).bind fun (r, l) => (readAddr l).map fun (a, l) => (.encSetRpm r a, l)
  | 0x38 => (readWord32 l).bind fun (d, l) => (readAddr l).map fun (a, l) => (.encSetDuty d a, l)
  | 0x3F => (readByte l).bind fun (a, l) => (readBytes l).map fun (i, l) => (.fwdWrap a i, l)
  | 0x40 => (readBytes l).map fun (p, l) => (.decTelemetry p, l)
  | 0x41 => (readBytes l).map fun (p, l) => (.decScanReply p, l)
  | 0x42 => some (.readTelemetry, l)
  | 0x50 => (readAddr l).map fun (a, l) => (.requestTelemetry a, l)
  | 0x51 => some (.scanForControllers, l)
  | 0x52 => (readWord32 l).bind fun (c, l) => (readAddr l).map fun (a, l) => (.sendCurrent c a, l)
  | 0x53 => (readWord32 l).bind fun (c, l) => (readAddr l).map fun (a, l) => (.sendBrakeCurrent c a, l)
  | 0x54 => (readWord32 l).bind fun (r, l) => (readAddr l).map fun (a, l) => (.sendRpm r a, l)
  | 0x55 => (readWord32 l).bind fun (d, l) => (readAddr l).map fun (a, l) => (.sendDuty d a, l)
  | 0x56 => (readWord32 l).bind fun (x, l) => (readWord32 l).bind fun (y, l) => (readBool l).bind fun (p, l) =>
      (readBool l).bind fun (q, l) => (readAddr l).map fun (a, l) => (.sendJoystick x y p q a, l)
  | 0x57 => (readWord32 l).bind fun (c, l) => (readWord32 l).bind fun (e, l) =>
      (readAddr l).map fun (a, l) => (.runOpenloop c e a, l)
  | 0x58 => (readAddr l).map fun (a, l) => (.stop a, l)
  | _ => some (.illegal op, l)

/-- A host operation: its code and its argument record (R70). -/
def decodeHost : List Byte → Option (Instr × List Byte)
  | op :: l => decodeHostArgs op l
  | [] => none

/-- The payload, CRC and stop marker that follow a frame's length field (R74, R75, R77). -/
def decodeFrameBody (P : Params) (n : Nat) (l : List Byte) : Option (List Byte × List Byte) :=
  (readRaw n l).bind fun (p, l) => (expectBytes (be16 (crc16 p) ++ [P.markerStop]) l).map fun l => (p, l)

/-- A whole frame (R74, R75). The start marker picks the form (R76). -/
def decodeFrame (P : Params) : List Byte → Option (Instr × List Byte)
  | m :: l =>
    if m = P.markerA then
      (readByte l).bind fun (n, l) => (decodeFrameBody P n.toNat l).map fun (p, l) => (.frameShort p, l)
    else if m = P.markerB then
      (readWord16 l).bind fun (n, l) =>
        if n.toNat < shortLimit then none
        else (decodeFrameBody P n.toNat l).map fun (p, l) => (.frameLong p, l)
    else none
  | [] => none

/-- An outbound payload (R79, R80), told by its identifier. -/
def decodePayload (P : Params) : List Byte → Option (Instr × List Byte)
  | i :: l =>
    if i = P.idGetValues then some (.payloadGetValues, l)
    else if i = P.idSetDuty then (readWord32 l).map fun (d, l) => (.payloadSetDuty d, l)
    else if i = P.idSetCurrent then (readWord32 l).map fun (c, l) => (.payloadSetCurrent c, l)
    else if i = P.idSetCurrentBrake then (readWord32 l).map fun (c, l) => (.payloadSetCurrentBrake c, l)
    else if i = P.idSetRpm then (readWord32 l).map fun (r, l) => (.payloadSetRpm r, l)
    else if i = P.idForward then
      (readByte l).bind fun (a, l) => (readByte l).bind fun (n, l) =>
        (readRaw n.toNat l).map fun (inner, l) => (.payloadForward a inner, l)
    else if i = P.idSetChuckData then
      (readByte l).bind fun (x, l) => (readByte l).bind fun (y, l) => (readBool l).bind fun (p, l) =>
        (readBool l).bind fun (q, l) => (expectBytes (List.replicate P.joyPadBytes 0x00) l).map fun l =>
          (.payloadSetChuckData x y p q, l)
    else if i = P.idPingCan then some (.payloadPingCan, l)
    else if i = P.idOpenloop then
      (readWord32 l).bind fun (c, l) => (readWord32 l).map fun (e, l) => (.payloadOpenloop c e, l)
    else if i = P.idStop then some (.payloadStop, l)
    else none
  | [] => none

/-- A reply payload (R81, R82). Bytes past `TELEM_MIN_LEN` are no part of the telemetry reply; a scan reply takes
every byte. -/
def decodeReply (P : Params) : List Byte → Option (Instr × List Byte)
  | i :: l =>
    if i = P.idGetValues then
      if P.layout.minLen ≤ (i :: l).length then
        some (.replyTelemetry (telemOfPayload P.layout (i :: l)), (i :: l).drop P.layout.minLen)
      else none
    else if i = P.idPingCan then some (.replyScan l, [])
    else none
  | [] => none

/-- The decoder: the instruction at the head of the bytes presented at a channel, and the bytes after it; none where
the bytes are no unit of that channel. -/
def decode (P : Params) : Channel → List Byte → Option (Instr × List Byte)
  | .host, l => decodeHost l
  | .frame, l => decodeFrame P l
  | .payload, l => decodePayload P l
  | .reply, l => decodeReply P l

/-! ## The encoder -/

/-- A boolean argument's byte. -/
def boolArg (b : Bool) : List Byte := [buttonByte b]
/-- An optional address's bytes. -/
def addrArg : Option Byte → List Byte
  | none => [0x00]
  | some a => [0x01, a]
/-- A natural number's base-128 digits, on fuel. -/
def natDigits : Nat → Nat → List Byte
  | 0, _ => []
  | fuel + 1, n => if n < 128 then [BitVec.ofNat 8 n] else BitVec.ofNat 8 (128 + n % 128) :: natDigits fuel (n / 128)
/-- A natural number's bytes. -/
def natArg (n : Nat) : List Byte := natDigits (n.log2 + 1) n
/-- A byte sequence's bytes, its length before it. -/
def bytesArg (s : List Byte) : List Byte := natArg s.length ++ s

/-- The bytes of an instruction at its channel. -/
def encode (P : Params) : Instr → List Byte
  | .crcInit => [0x01]
  | .crcByte b => [0x02, b]
  | .crcBlock s => 0x03 :: bytesArg s
  | .crcCheck s e => 0x04 :: (bytesArg s ++ be16 e)
  | .frameBuild p => 0x10 :: bytesArg p
  | .frameSend p => 0x11 :: bytesArg p
  | .rxReceive d => 0x20 :: natArg d
  | .rxValidate p c => 0x21 :: (bytesArg p ++ be16 c)
  | .encGetValues a => 0x30 :: addrArg a
  | .encScan => [0x31]
  | .encOpenloop c e a => 0x32 :: (be32 c ++ be32 e ++ addrArg a)
  | .encStop a => 0x33 :: addrArg a
  | .encJoystick x y p q a => 0x34 :: (be32 x ++ be32 y ++ boolArg p ++ boolArg q ++ addrArg a)
  | .encSetCurrent c a => 0x35 :: (be32 c ++ addrArg a)
  | .encSetBrake c a => 0x36 :: (be32 c ++ addrArg a)
  | .encSetRpm r a => 0x37 :: (be32 r ++ addrArg a)
  | .encSetDuty d a => 0x38 :: (be32 d ++ addrArg a)
  | .fwdWrap a i => 0x3F :: a :: bytesArg i
  | .decTelemetry p => 0x40 :: bytesArg p
  | .decScanReply p => 0x41 :: bytesArg p
  | .readTelemetry => [0x42]
  | .requestTelemetry a => 0x50 :: addrArg a
  | .scanForControllers => [0x51]
  | .sendCurrent c a => 0x52 :: (be32 c ++ addrArg a)
  | .sendBrakeCurrent c a => 0x53 :: (be32 c ++ addrArg a)
  | .sendRpm r a => 0x54 :: (be32 r ++ addrArg a)
  | .sendDuty d a => 0x55 :: (be32 d ++ addrArg a)
  | .sendJoystick x y p q a => 0x56 :: (be32 x ++ be32 y ++ boolArg p ++ boolArg q ++ addrArg a)
  | .runOpenloop c e a => 0x57 :: (be32 c ++ be32 e ++ addrArg a)
  | .stop a => 0x58 :: addrArg a
  | .illegal op => [op]
  | .frameShort p => frame P p
  | .frameLong p => frame P p
  | .payloadGetValues => getValuesPayload P
  | .payloadSetDuty d => setDutyPayload P (be32 d)
  | .payloadSetCurrent c => setCurrentPayload P (be32 c)
  | .payloadSetCurrentBrake c => setBrakePayload P (be32 c)
  | .payloadSetRpm r => setRpmPayload P r
  | .payloadForward a inner => envelope P a inner
  | .payloadSetChuckData x y p q => chuckPayload P x y p q
  | .payloadPingCan => scanPayload P
  | .payloadOpenloop c e => openloopPayload P (be32 c) e
  | .payloadStop => stopPayload P
  | .replyTelemetry t => telemetryReplyPayload P t
  | .replyScan a => scanReplyPayload P a

/-! ## Words of the opcode table -/

/-- Bytes of padding after a table word: more than the longest argument record whose values are all zero (twelve bytes,
the joystick's; 32 bytes of telemetry fields). -/
def tablePadding : Nat := 40

/-- The bytes of a table word of `nbits` bits, bit 0 the least significant bit of the first byte; what the instruction
has above them is zero. -/
def tableBytes (nbits w : Nat) : List Byte :=
  (List.range ((nbits + 7) / 8)).map (fun k => BitVec.ofNat 8 (w >>> (8 * k))) ++ List.replicate tablePadding 0x00

/-- The channel whose rows of the table list a first byte, under P_REF: a code of R71 is a host operation, then the
wire rows by their marker or identifier, and every other byte is a host code (illegal, R72). DESIGN CHOICE
(notes/assumptions/15.md, safe): the table lists rows of two encoding levels whose first bytes collide; the host
port itself reads every unlisted code as illegal (`decodeHost`). -/
def tableChannel (b : Byte) : Channel :=
  let P := Params.pRef
  if legalCodes.contains b then .host
  else if b = P.markerA || b = P.markerB then .frame
  else if b = P.idForward || b = P.idPingCan || P.innerIds.contains b then .payload
  else .host

/-- The channel of a table word: that of its first byte. -/
def tableWordChannel (nbits w : Nat) : Channel := tableChannel (byteAt (tableBytes nbits w) 0)

/-- The instruction the decoder reads from a word of spec/opcode_table.json. -/
def decodeTableWord (nbits w : Nat) : Option Instr :=
  (decode .pRef (tableWordChannel nbits w) (tableBytes nbits w)).map Prod.fst

end Sys2Proof
end

