-- ==== Sys2Proof/Machine/State.lean ====
section
/-! DEFINITION. The state of the block and of what stands around it (10_state.md, 20_memory.md R50, 60_exceptions.md R280,
R290), the reasons a step can stop, and the state after reset (R38). -/
namespace Sys2Proof.Machine

/-! ## Why a step stops

The errors of R280 are no faults: they are results (R282), see `BlockError`. -/

/-- Faults. -/
inductive Fault where
  /-- A `TELEM` field was read while it holds no value (R39, 93_implementation_defined.md U5: "fault"). Raised by
  `READ_TELEMETRY` in a state with `TVALID = 1` and no record, which no run from reset reaches. Safe. -/
  | telemUnwritten
  /-- A receiver step was due while `RXST` names no transition (IDLE or DONE, R24, R142): no run from reset reaches
  it. Safe (notes/assumptions/7.md). -/
  | noTransition
  /-- An `RXBUF` index outside `0 .. RX_MAX_PAYLOAD + 2` (R27, 20_memory.md R50 (a)): no run from reset reaches it.
  Safe (notes/assumptions/7.md). -/
  | rxbufIndex
  deriving DecidableEq, Repr

/-- Refusals. -/
inductive Refusal where
  /-- An instruction that has no meaning yet, by its mnemonic. Raised by `exec`'s refused arms only. Safe. -/
  | notModelled (mnemonic : String)
  /-- The parameter set breaks a constraint of 00_scope.md R8 (R8: "refusing an instantiation that breaks one", R313:
  "a model refuses any other"). Raised by every step. Safe. -/
  | badInstantiation
  /-- The bytes presented at a channel are no unit of it: a host argument record cut short or with a byte that is no
  value of its kind, or link bytes that are no unit of the named format. R70 gives the host port typed records, so
  the spec has no such presentation (notes/assumptions/18.md). Raised by `step`. Safe. -/
  | noSuchUnit
  deriving DecidableEq, Repr

/-! ## Errors and results (R280, R71) -/

/-- The errors of R280 with the information each returns. -/
inductive BlockError where
  | encodingTooLarge (length : Nat)
  | timeout
  | malformed (length : BitVec 16)
  | crcMismatch (expected computed : BitVec 16)
  | shortPayload (length : Nat)
  | transportUnavailable
  | valueOutOfRange (argument : Binary32)
  | unexpectedResponse (seen : Byte)
  | illegalOperation (code : Byte)
  deriving DecidableEq, Repr

/-- The result record an operation returns (the results column of R71), or the error it raised. -/
inductive HostResult where
  | done
  | crc (c : BitVec 16)
  | isMatch (b : Bool)
  | frame (f : List Byte)
  | frameCount (f : List Byte) (count : BitVec 17)
  | payloadCrc (p : List Byte) (c : BitVec 16)
  | payload (p : List Byte)
  | addrs (a : List Byte)
  | record (r : Option Telem)
  | telem (r : Telem)
  | count (n : BitVec 17)
  | error (e : BlockError)
  deriving DecidableEq, Repr

/-! ## Sequencing -/

/-- `RXST` (R24). Its encodings 5 to 7 are never written, so they are no values here. -/
inductive RxState where
  | idle | seekStart | readLength | accumulate | done
  deriving DecidableEq, Repr

/-- The operations that go on after their first step (R55). -/
inductive Receiver where
  | rxReceive | requestTelemetry | scanForControllers
  deriving DecidableEq, Repr

/-- The operation in progress: none; a composite whose request is written and whose deadline is still to be read
(45_host_operations.md R251, notes/assumptions/11.md); or one whose receive runs. -/
inductive Activity where
  | idle
  | sent (r : Receiver)
  | receiving (r : Receiver)
  deriving DecidableEq, Repr

/-- One act of an agent (R20, R290, 70_reset_and_hazards.md R311). The model's own vocabulary
(notes/assumptions/2.md). -/
inductive Event where
  /-- A unit is presented: the host presents an operation, or a wire unit arrives on the link. -/
  | present (c : Channel) (bytes : List Byte)
  /-- The transport appends bytes to the receive source: any bytes (20_memory.md R58). -/
  | arrive (bytes : List Byte)
  /-- The clock advances by this much (60_exceptions.md R289). -/
  | advance (n : Nat)
  /-- The block takes its next step, if it is busy. -/
  | blockStep
  /-- Reset is asserted (R311). -/
  | reset
  deriving DecidableEq, Repr

/-! ## Buffers -/

/-- An indexed byte container: the bytes written, by rising index; an index not listed holds no written byte. -/
abbrev Memory := List Host.Cell

/-- Every index of the list is at least `n`, and they rise strictly. -/
def Memory.wfFrom : Nat → Memory → Bool
  | _, [] => true
  | n, (i, _) :: m => n ≤ i && Memory.wfFrom (i + 1) m

/-- The canonical form: strictly rising indices. (An unlisted index reads as no byte, which no entry equals.) -/
def Memory.wf (m : Memory) : Bool := Memory.wfFrom 0 m

/-! ## The state -/

/-- Everything the spec gives the machine; INVENTORY.md, State, says where. -/
structure State where
  -- registers and buffers of the block (10_state.md)
  crc       : BitVec 16
  status    : BitVec 8
  rxst      : RxState
  rxkind    : BitVec 1
  rxneed    : BitVec 2
  rxlencnt  : BitVec 2
  rxlen     : BitVec 16
  rxcnt     : BitVec 17
  rxbuf     : Memory
  deadline  : Nat
  txbuf     : Memory
  txPast    : Option Byte   -- what R121 stored one past the last index of `txbuf` (notes/assumptions/9.md)
  txlen     : BitVec 17
  txcount   : BitVec 17
  tvalid    : Bool
  telem     : Option Telem
  -- the operation in progress and the host result port (R290)
  activity  : Activity
  result    : Option HostResult
  -- transport, clock and static inputs (20_memory.md R50, 00_scope.md R13, R7)
  rxQueue   : List Byte
  txStream  : List Byte
  txMark    : Nat   -- the length `txStream` had at the last reset (R50 (d), notes/assumptions/10.md)
  clock     : Nat
  transportPresent : Bool
  params    : Params
  -- the model's own: the sink's answers to come, the index of the next free one, and the acts to come
  sinkAnswers : List Nat
  txDraws     : Nat
  schedule    : List Event
  deriving DecidableEq, Repr

/-- The machine right after reset (R38, R310), with nothing around it yet: no byte arrived or sent, the clock at 0
(notes/assumptions/20.md), the transport present (notes/assumptions/4.md), the reference parameters
(notes/assumptions/3.md), and no act to come (notes/assumptions/17.md). -/
def State.reset : State where
  crc := crcInit
  status := 0
  rxst := .idle
  rxkind := 0
  rxneed := 0
  rxlencnt := 0
  rxlen := 0
  rxcnt := 0
  rxbuf := []
  deadline := 0
  txbuf := []
  txPast := none
  txlen := 0
  txcount := 0
  tvalid := false
  telem := none
  activity := .idle
  result := none
  rxQueue := []
  txStream := []
  txMark := 0
  clock := 0
  transportPresent := true
  params := .pRef
  sinkAnswers := []
  txDraws := 0
  schedule := []

end Sys2Proof.Machine
end

