-- ==== Sys2Proof/Machine/Flags.lean ====
section
/-! DEFINITION. The block has no condition codes (10_state.md R34). Its status-like values are `STATUS`, whose codes stand
here (60_exceptions.md R280), and the encoding of `RXST` (R24). -/
namespace Sys2Proof.Machine

/-- `STATUS` of a successful operation (R280). -/
def statusOk : BitVec 8 := 0

/-- The `STATUS` code of an error (R280). -/
def errorCode : BlockError → BitVec 8
  | .encodingTooLarge _ => 1
  | .timeout => 2
  | .malformed _ => 3
  | .crcMismatch _ _ => 4
  | .shortPayload _ => 5
  | .transportUnavailable => 6
  | .valueOutOfRange _ => 7
  | .unexpectedResponse _ => 8
  | .illegalOperation _ => 9

/-- The encoding of `RXST` (R24). -/
def rxstCode : RxState → BitVec 3
  | .idle => 0
  | .seekStart => 1
  | .readLength => 2
  | .accumulate => 3
  | .done => 4

end Sys2Proof.Machine
end

