-- ==== Sys2Proof/Machine/Ops.lean ====
section
/-! DEFINITION. The named operations over State that the meanings share: byte containers (20_memory.md R50), the transport
primitives (00_scope.md R13, 20_memory.md R56, R57), the end of an operation with a result (R14) or an error
(60_exceptions.md R281), calls of one operation by another (45_host_operations.md), and reset (70_reset_and_hazards.md
R310, R311). -/
namespace Sys2Proof.Machine

/-! ## Byte containers -/

/-- The byte written at an index, if one was. -/
def memRead : Memory → Nat → Option Byte
  | [], _ => none
  | (j, w) :: m, i => if j = i then some w else memRead m i

/-- Write one byte; the canonical form is kept. -/
def memWrite : Memory → Nat → Byte → Memory
  | [], i, v => [(i, v)]
  | (j, w) :: m, i, v =>
    if i < j then (i, v) :: (j, w) :: m else if i = j then (i, v) :: m else (j, w) :: memWrite m i v

/-- `MemWrite(buf, off, n, v)` of R12: the bytes at `off` and on. -/
def memWriteAll : Memory → Nat → List Byte → Memory
  | m, _, [] => m
  | m, off, b :: bs => memWriteAll (memWrite m off b) (off + 1) bs

/-- The byte at an index; one that nothing has written is a free value (93_implementation_defined.md U4,
notes/assumptions/6.md, safe: nothing is known of it). -/
def memByte (m : Memory) (i : Nat) : Byte := (memRead m i).getD (Config.freeBufferByte i)

/-- `MemRead(buf, off, n)` of R12. -/
def memReadAll (m : Memory) (off n : Nat) : List Byte := (List.range n).map fun k => memByte m (off + k)

/-- The number of bytes `TXBUF` has (10_state.md R29, 20_memory.md R50 (b)). -/
def txbufCapacity : Nat := maxPayload + 5

/-- `TXBUF[i]`, if it has been written: the buffer, and one past it the byte that 41_frame_encoder.md R121 stores there of
the longest frame (DEDUCED, notes/assumptions/9.md, safe: the rules are both met). -/
def txbufRead (s : State) (i : Nat) : Option Byte :=
  if i < txbufCapacity then memRead s.txbuf i else if i = txbufCapacity then s.txPast else none

/-- `TXBUF[0..len(f)) <- f` of R121 and R122. Past the frame every byte stays (DEDUCED, notes/assumptions/23.md). -/
def txbufStore (f : List Byte) (s : State) : State :=
  { s with txbuf := memWriteAll s.txbuf 0 (f.take txbufCapacity), txPast := f[txbufCapacity]?.or s.txPast }

/-! ## Transport primitives -/

/-- The count the transmit sink answers next, before the bound of R57: the environment's next answer, or a free value
where it has none in store (notes/assumptions/5.md, safe: every count `0 .. len` is admitted). -/
def sinkAnswer (s : State) : Nat :=
  match s.sinkAnswers with
  | c :: _ => c
  | [] => Config.freeSinkCount s.txDraws

/-- The count `c` of `TxWrite(f)`, `0 <= c <= len(f)` (R57). -/
def txCountOf (f : List Byte) (s : State) : Nat := min (sinkAnswer s) f.length

/-- `TxWrite(f)`: exactly `f[0..c)` is appended to the transmit stream (R57), and the answer is used up. -/
def txWrite (f : List Byte) (s : State) : State :=
  { s with
    txStream := s.txStream ++ f.take (txCountOf f s)
    sinkAnswers := s.sinkAnswers.tail
    txDraws := s.txDraws + 1 }

/-- The bytes the transmit sink has accepted since reset (R50 (d)); the stream itself outlives a reset
(70_reset_and_hazards.md R311, notes/assumptions/10.md). -/
def sentSinceReset (s : State) : List Byte := s.txStream.drop s.txMark

/-- The transport appends bytes to the receive queue (R58, 10_state.md R37). -/
def arrive (bs : List Byte) (s : State) : State := { s with rxQueue := s.rxQueue ++ bs }

/-- The clock advances (60_exceptions.md R289: monotonic, no wrap). -/
def advanceClock (n : Nat) (s : State) : State := { s with clock := s.clock + n }

/-! ## The end of an operation -/

/-- An operation ends with `return OK(results)` (R14): `STATUS` is 0 and the result record is presented (R290). -/
def endOk (r : HostResult) (s : State) : State :=
  { s with status := statusOk, activity := .idle, result := some r }

/-- Error entry, R281: the operation ends at once, `STATUS` is written with the code, the error and its information are
presented, and nothing else is written. There is no handler and no return (R286). -/
def takeError (e : BlockError) (s : State) : State :=
  { s with status := errorCode e, activity := .idle, result := some (.error e) }

/-- How a called operation comes back (45_host_operations.md: "if `X` raises, the composite raises the same error at
once"): a value, or an error with the state its earlier lines left. -/
inductive Call (α : Type) where
  | ok (a : α) (s : State)
  | raised (e : BlockError) (s : State)

/-- The lines after a call. -/
def Call.andThen {α β : Type} (c : Call α) (k : α → State → Call β) : Call β :=
  match c with
  | .ok a s => k a s
  | .raised e s => .raised e s

/-- The end of an operation that is one call. -/
def Call.finish {α : Type} (c : Call α) (r : α → HostResult) : Host.Outcome State Fault Refusal :=
  match c with
  | .ok a s => .next (endOk (r a) s)
  | .raised e s => .next (takeError e s)

/-- A pure computation of a payload (43_command_codec.md), as a call: no state is touched (R182). -/
def callPure {α : Type} (c : Except BlockError α) (s : State) : Call α :=
  match c with
  | .ok a => .ok a s
  | .error e => .raised e s

/-- `if not TransportPresent: raise TransportUnavailable()`. -/
def needTransport {α : Type} (s : State) (k : Call α) : Call α :=
  if s.transportPresent then k else .raised .transportUnavailable s

/-! ## Reset -/

/-- Reset (R310, R311): the block's state to R38; the receive queue, the transmit stream, the clock, the parameters and
the environment's acts and answers to come stay. What is sent from now on is counted anew (20_memory.md R50 (d)). -/
def applyReset (s : State) : State :=
  { State.reset with
    rxQueue := s.rxQueue
    txStream := s.txStream
    txMark := s.txStream.length
    clock := s.clock
    transportPresent := s.transportPresent
    params := s.params
    sinkAnswers := s.sinkAnswers
    txDraws := s.txDraws
    schedule := s.schedule }

end Sys2Proof.Machine
end

