-- ==== Sys2Proof/Machine/CrcEngine.lean ====
section
/-! DEFINITION. The CRC operations: 40_crc.md R102 to R105. -/
namespace Sys2Proof.Machine

/-- `CRC_INIT`, R102. -/
def execCrcInit (s : State) : Host.Outcome State Fault Refusal :=
  .next (endOk .done { s with crc := crcInit })

/-- `CRC_BYTE b`, R103. -/
def execCrcByte (b : Byte) (s : State) : Host.Outcome State Fault Refusal :=
  .next (endOk (.crc (crcByte s.crc b)) { s with crc := crcByte s.crc b })

/-- `CRC_BLOCK s`, R104. -/
def execCrcBlock (bs : List Byte) (s : State) : Host.Outcome State Fault Refusal :=
  .next (endOk (.crc (crc16 bs)) { s with crc := crc16 bs })

/-- `CRC_CHECK s, expected`, R105: a mismatch is a result, not an error. -/
def execCrcCheck (bs : List Byte) (expected : BitVec 16) (s : State) : Host.Outcome State Fault Refusal :=
  .next (endOk (.isMatch (crc16 bs = expected)) { s with crc := crc16 bs })

end Sys2Proof.Machine
end

