-- ==== Sys2Proof/Machine/CommandCodec.lean ====
section
/-! DEFINITION. The command codec: 43_command_codec.md R180 to R194. Each operation's payload is a pure function of the
parameters and the arguments (R182); value checks come before the envelope's length check (R194). -/
namespace Sys2Proof.Machine

/-- `fx(v, k)` with its raise, R180. -/
def fxField (v : Binary32) (k : Nat) : Except BlockError (List Byte) :=
  match fx v k with
  | some f => .ok f
  | none => .error (.valueOutOfRange v)

/-- `wrap(addr, inner)`, R181. -/
def wrap (P : Params) (addr : Option Byte) (inner : List Byte) : Except BlockError (List Byte) :=
  match addr with
  | none => .ok inner
  | some a => if 255 < inner.length then .error (.encodingTooLarge inner.length) else .ok (envelope P a inner)

/-- R183. -/
def encGetValues (P : Params) (addr : Option Byte) : Except BlockError (List Byte) := wrap P addr (getValuesPayload P)
/-- R184: never wrapped. -/
def encScan (P : Params) : Except BlockError (List Byte) := .ok (scanPayload P)
/-- R185. -/
def encOpenloop (P : Params) (current : Binary32) (erpm : I32) (addr : Option Byte) : Except BlockError (List Byte) :=
  (fxField current P.openloopCurrentScale).bind fun c => wrap P addr (openloopPayload P c erpm)
/-- R186. -/
def encStop (P : Params) (addr : Option Byte) : Except BlockError (List Byte) := wrap P addr (stopPayload P)
/-- R187. -/
def encJoystick (P : Params) (x y : I32) (buttonA buttonB : Bool) (addr : Option Byte) : Except BlockError (List Byte) :=
  wrap P addr (chuckPayload P (axisByte x) (axisByte y) buttonA buttonB)
/-- R188. -/
def encSetCurrent (P : Params) (current : Binary32) (addr : Option Byte) : Except BlockError (List Byte) :=
  (fxField current P.currentScale).bind fun c => wrap P addr (setCurrentPayload P c)
/-- R189. -/
def encSetBrake (P : Params) (current : Binary32) (addr : Option Byte) : Except BlockError (List Byte) :=
  (fxField current P.brakeScale).bind fun c => wrap P addr (setBrakePayload P c)
/-- R190. -/
def encSetRpm (P : Params) (rpm : I32) (addr : Option Byte) : Except BlockError (List Byte) :=
  wrap P addr (setRpmPayload P rpm)
/-- R191. -/
def encSetDuty (P : Params) (duty : Binary32) (addr : Option Byte) : Except BlockError (List Byte) :=
  (fxField duty P.dutyScale).bind fun d => wrap P addr (setDutyPayload P d)

/-- A command operation: its payload is the result, `STATUS` the only register written (R182). -/
def returnPayload (c : Except BlockError (List Byte)) (s : State) : Host.Outcome State Fault Refusal :=
  (callPure c s).finish .payload

/-- `ENC_GET_VALUES addr`, R183. -/
def execEncGetValues (addr : Option Byte) (s : State) : Host.Outcome State Fault Refusal :=
  returnPayload (encGetValues s.params addr) s
/-- `ENC_SCAN`, R184. -/
def execEncScan (s : State) : Host.Outcome State Fault Refusal :=
  returnPayload (encScan s.params) s
/-- `ENC_OPENLOOP current, erpm, addr`, R185. -/
def execEncOpenloop (current : Binary32) (erpm : I32) (addr : Option Byte) (s : State) : Host.Outcome State Fault Refusal :=
  returnPayload (encOpenloop s.params current erpm addr) s
/-- `ENC_STOP addr`, R186. -/
def execEncStop (addr : Option Byte) (s : State) : Host.Outcome State Fault Refusal :=
  returnPayload (encStop s.params addr) s
/-- `ENC_JOYSTICK x, y, buttonA, buttonB, addr`, R187. -/
def execEncJoystick (x y : I32) (buttonA buttonB : Bool) (addr : Option Byte) (s : State) :
    Host.Outcome State Fault Refusal :=
  returnPayload (encJoystick s.params x y buttonA buttonB addr) s
/-- `ENC_SET_CURRENT current, addr`, R188. -/
def execEncSetCurrent (current : Binary32) (addr : Option Byte) (s : State) : Host.Outcome State Fault Refusal :=
  returnPayload (encSetCurrent s.params current addr) s
/-- `ENC_SET_BRAKE current, addr`, R189. -/
def execEncSetBrake (current : Binary32) (addr : Option Byte) (s : State) : Host.Outcome State Fault Refusal :=
  returnPayload (encSetBrake s.params current addr) s
/-- `ENC_SET_RPM rpm, addr`, R190. -/
def execEncSetRpm (rpm : I32) (addr : Option Byte) (s : State) : Host.Outcome State Fault Refusal :=
  returnPayload (encSetRpm s.params rpm addr) s
/-- `ENC_SET_DUTY duty, addr`, R191. -/
def execEncSetDuty (duty : Binary32) (addr : Option Byte) (s : State) : Host.Outcome State Fault Refusal :=
  returnPayload (encSetDuty s.params duty addr) s
/-- `FWD_WRAP addr, inner`, R192. -/
def execFwdWrap (addr : Byte) (inner : List Byte) (s : State) : Host.Outcome State Fault Refusal :=
  returnPayload (wrap s.params (some addr) inner) s

end Sys2Proof.Machine
end

