-- ==== Sys2Proof/Machine/FrameEncoder.lean ====
section
/-! DEFINITION. The frame encoder: 41_frame_encoder.md R121, R122. -/
namespace Sys2Proof.Machine

/-- The lines `FRAME_BUILD` and `FRAME_SEND` share: `CRC`, `TXBUF` and `TXLEN` for a frame of `payload` (R121, R122). -/
def loadFrame (payload : List Byte) (s : State) : State :=
  let f := frame s.params payload
  { txbufStore f s with crc := crc16 payload, txlen := BitVec.ofNat 17 f.length }

/-- R121 as a call. -/
def frameBuild (payload : List Byte) (s : State) : Call (List Byte) :=
  if maxPayload < payload.length then .raised (.encodingTooLarge payload.length) s
  else .ok (frame s.params payload) (loadFrame payload s)

/-- R122 as a call: the transport is checked first, then the length (R283); a short write is no error. -/
def frameSend (payload : List Byte) (s : State) : Call (List Byte × BitVec 17) :=
  needTransport s <|
    if maxPayload < payload.length then .raised (.encodingTooLarge payload.length) s
    else
      let f := frame s.params payload
      let n := BitVec.ofNat 17 (txCountOf f s)
      .ok (f, n) { txWrite f (loadFrame payload s) with txcount := n, status := statusOk }

/-- `FRAME_BUILD payload`, R121. -/
def execFrameBuild (payload : List Byte) (s : State) : Host.Outcome State Fault Refusal :=
  (frameBuild payload s).finish .frame

/-- `FRAME_SEND payload`, R122. -/
def execFrameSend (payload : List Byte) (s : State) : Host.Outcome State Fault Refusal :=
  (frameSend payload s).finish fun r => .frameCount r.1 r.2

end Sys2Proof.Machine
end

