-- ==== Sys2Proof/Machine/FrameReceiver.lean ====
section
/-! DEFINITION. The frame receiver and the payload validator: 42_frame_receiver.md R141 to R153. -/
namespace Sys2Proof.Machine

/-- The lines of R141 before its loop. -/
def startReceive (deadline : Nat) (s : State) : Call Unit :=
  needTransport s <| .ok () { s with deadline := deadline, rxst := .seekStart, rxcnt := 0 }

/-- What one `rx_step()` does (R142): `WAIT`, `MORE`, `FRAME(p, c)`, a raise; or the model's stop in a state no run
reaches. -/
inductive RxStep where
  | wait (s : State)
  | more (s : State)
  | frame (p : List Byte) (c : BitVec 16) (s : State)
  | raised (e : BlockError) (s : State)
  | fault (f : Fault)

/-- `SEEK_START` consume, R145; `s` is the state after `RxRead` gave `b`. -/
def rxSeekStart (b : Byte) (s : State) : RxStep :=
  if b = s.params.markerA then
    .more { s with rxkind := 0, rxneed := 1, rxlencnt := 0, rxlen := 0, rxst := .readLength }
  else if b = s.params.markerB then
    .more { s with rxkind := 1, rxneed := 2, rxlencnt := 0, rxlen := 0, rxst := .readLength }
  else .more s

/-- Length complete and length too long, R147, R148. -/
def rxLengthComplete (s : State) : RxStep :=
  if s.params.rxMaxPayload < s.rxlen.toNat then .raised (.malformed s.rxlen) { s with rxst := .idle }
  else .more { s with rxcnt := 0, rxst := .accumulate }

/-- `READ_LENGTH` consume, R146. -/
def rxReadLength (b : Byte) (s : State) : RxStep :=
  let s1 := { s with rxlen := (s.rxlen <<< 8) ||| b.zeroExtend 16, rxlencnt := s.rxlencnt + 1 }
  if s1.rxlencnt = s1.rxneed then rxLengthComplete s1 else .more s1

/-- Complete, R150. `DONE` is entered and left within the step, so `RXST` is IDLE after it. -/
def rxComplete (s : State) : RxStep :=
  .frame (memReadAll s.rxbuf 0 s.rxlen.toNat)
    (ofBe16 (memByte s.rxbuf s.rxlen.toNat) (memByte s.rxbuf (s.rxlen.toNat + 1)))
    { s with rxst := .idle }

/-- `ACCUMULATE` consume and stop check, R149. -/
def rxAccumulate (b : Byte) (s : State) : RxStep :=
  if s.params.rxMaxPayload + 3 ≤ s.rxcnt.toNat then .fault .rxbufIndex
  else
    let s1 := { s with rxbuf := memWrite s.rxbuf s.rxcnt.toNat b, rxcnt := s.rxcnt + 1 }
    if s1.rxcnt.toNat = s1.rxlen.toNat + 3 then
      if memByte s1.rxbuf (s1.rxlen.toNat + 2) = s1.params.markerStop then rxComplete s1
      else .more { s1 with rxst := .seekStart, rxcnt := 0 }
    else .more s1

/-- Expiry, R143: the candidate is dropped, no byte is consumed. -/
def rxExpire (s : State) : RxStep := .raised .timeout { s with rxst := .idle, rxcnt := 0 }

/-- A step's byte: expiry first (R143), then wait (R144), then `RxRead` (R56, R58) and the transition. -/
def rxWithByte (s : State) (k : Byte → State → RxStep) : RxStep :=
  if s.deadline ≤ s.clock then rxExpire s
  else
    match s.rxQueue with
    | [] => .wait s
    | b :: q => k b { s with rxQueue := q }

/-- `rx_step()`, R142: chosen by `RXST` alone (10_state.md R36). -/
def rxStep (s : State) : RxStep :=
  match s.rxst with
  | .seekStart => rxWithByte s rxSeekStart
  | .readLength => rxWithByte s rxReadLength
  | .accumulate => rxWithByte s rxAccumulate
  | .idle | .done => .fault .noTransition

/-- R153 as a call: `CRC` is written even on a mismatch. -/
def rxValidate (payload : List Byte) (crc : BitVec 16) (s : State) : Call (List Byte) :=
  let s1 := { s with crc := crc16 payload }
  if crc16 payload = crc then .ok payload s1 else .raised (.crcMismatch crc (crc16 payload)) s1

/-- `RX_RECEIVE deadline`, R141: the lines before the loop; the receiver steps follow, one block step each (R142). -/
def execRxReceive (deadline : Nat) (s : State) : Host.Outcome State Fault Refusal :=
  match startReceive deadline s with
  | .ok _ s1 => .next { s1 with activity := .receiving .rxReceive }
  | .raised e s1 => .next (takeError e s1)

/-- `RX_VALIDATE payload, crc`, R153. -/
def execRxValidate (payload : List Byte) (crc : BitVec 16) (s : State) : Host.Outcome State Fault Refusal :=
  (rxValidate payload crc s).finish .payload

end Sys2Proof.Machine
end

