-- ==== Sys2Proof/Machine/TelemetryDecoder.lean ====
section
/-! DEFINITION. The telemetry decoder: 44_telemetry_decoder.md R222 to R227. -/
namespace Sys2Proof.Machine

/-- The checks of R223 in their order, and the decoded record. -/
def telemetryOf (P : Params) (p : List Byte) : Except BlockError Telem :=
  match p with
  | [] => .error (.shortPayload 0)
  | b :: _ =>
    if P.checkResponseId && b ≠ P.idGetValues then .error (.unexpectedResponse b)
    else if p.length < P.layout.minLen then .error (.shortPayload p.length)
    else .ok (telemOfPayload P.layout p)

/-- R223 as a call: the nine fields and `TVALID` are written together (10_state.md R32). -/
def decTelemetry (p : List Byte) (s : State) : Call Telem :=
  (callPure (telemetryOf s.params p) s).andThen fun t s => .ok t { s with telem := some t, tvalid := true }

/-- The checks and the address list of R226. -/
def scanReplyOf (P : Params) (p : List Byte) : Except BlockError (List Byte) :=
  match p with
  | [] => .error (.shortPayload 0)
  | b :: addrs => if P.checkResponseId && b ≠ P.idPingCan then .error (.unexpectedResponse b) else .ok addrs

/-- `DEC_TELEMETRY payload`, R223. -/
def execDecTelemetry (payload : List Byte) (s : State) : Host.Outcome State Fault Refusal :=
  (decTelemetry payload s).finish fun _ => .done

/-- `DEC_SCAN_REPLY payload`, R226. -/
def execDecScanReply (payload : List Byte) (s : State) : Host.Outcome State Fault Refusal :=
  (callPure (scanReplyOf s.params payload) s).finish .addrs

/-- `READ_TELEMETRY`, R227. A record read while `TELEM` holds no value is the fault of 10_state.md R39; `TVALID = 1`
rules it out in every state a run reaches. -/
def execReadTelemetry (s : State) : Host.Outcome State Fault Refusal :=
  if s.tvalid then
    match s.telem with
    | some t => .next (endOk (.record (some t)) s)
    | none => .fault .telemUnwritten
  else .next (endOk (.record none) s)

end Sys2Proof.Machine
end

