-- ==== Sys2Proof/Machine/HostOperations.lean ====
section
/-! DEFINITION. The composite operations: 45_host_operations.md R250 to R260, the steps by which those that receive go on,
and the illegal code (30_encoding.md R72). -/
namespace Sys2Proof.Machine

/-- A request that awaits a reply, up to its sent frame (R252, R253): transport check, payload, `FRAME_SEND`. The
operation goes on in later block steps (R250, notes/assumptions/11.md). -/
def sendRequest (c : Except BlockError (List Byte)) (r : Receiver) (s : State) : Host.Outcome State Fault Refusal :=
  match needTransport s ((callPure c s).andThen frameSend) with
  | .ok _ s1 => .next { s1 with activity := .sent r }
  | .raised e s1 => .next (takeError e s1)

/-- A fire-and-forget command (R254 to R260): transport check, payload, `FRAME_SEND`, the count. -/
def sendCommand (c : Except BlockError (List Byte)) (s : State) : Host.Outcome State Fault Refusal :=
  (needTransport s ((callPure c s).andThen frameSend)).finish fun r => .count r.2

/-- The end of a receive that assembled the frame `(p, c)`: of `RX_RECEIVE` (R141), of `REQUEST_TELEMETRY` (R252), of
`SCAN_FOR_CONTROLLERS` (R253). Validation and decoding stand in the step of the last byte: no other agent could tell
(notes/assumptions/12.md). -/
def endReceive (r : Receiver) (p : List Byte) (c : BitVec 16) (s : State) : Host.Outcome State Fault Refusal :=
  match r with
  | .rxReceive => .next (endOk (.payloadCrc p c) s)
  | .requestTelemetry => ((rxValidate p c s).andThen decTelemetry).finish .telem
  | .scanForControllers =>
    ((rxValidate p c s).andThen fun q s => callPure (scanReplyOf s.params q) s).finish .addrs

/-- The block's next step: nothing while it waits for an operation (70_reset_and_hazards.md R312); the deadline
`Now() + RX_TIMEOUT` and the start of the receive of a sent request (R251); one receiver step (R142). -/
def blockStep (s : State) : Host.Outcome State Fault Refusal :=
  match s.activity with
  | .idle => .next s
  | .sent r =>
    match startReceive (s.clock + s.params.rxTimeout) s with
    | .ok _ s1 => .next { s1 with activity := .receiving r }
    | .raised e s1 => .next (takeError e s1)
  | .receiving r =>
    match rxStep s with
    | .wait s1 => .next s1
    | .more s1 => .next s1
    | .frame p c s1 => endReceive r p c s1
    | .raised e s1 => .next (takeError e s1)
    | .fault f => .fault f

/-- `REQUEST_TELEMETRY addr`, R252. -/
def execRequestTelemetry (addr : Option Byte) (s : State) : Host.Outcome State Fault Refusal :=
  sendRequest (encGetValues s.params addr) .requestTelemetry s
/-- `SCAN_FOR_CONTROLLERS`, R253. -/
def execScanForControllers (s : State) : Host.Outcome State Fault Refusal :=
  sendRequest (encScan s.params) .scanForControllers s
/-- `SEND_CURRENT current, addr`, R254. -/
def execSendCurrent (current : Binary32) (addr : Option Byte) (s : State) : Host.Outcome State Fault Refusal :=
  sendCommand (encSetCurrent s.params current addr) s
/-- `SEND_BRAKE_CURRENT current, addr`, R255. -/
def execSendBrakeCurrent (current : Binary32) (addr : Option Byte) (s : State) : Host.Outcome State Fault Refusal :=
  sendCommand (encSetBrake s.params current addr) s
/-- `SEND_RPM rpm, addr`, R256. -/
def execSendRpm (rpm : I32) (addr : Option Byte) (s : State) : Host.Outcome State Fault Refusal :=
  sendCommand (encSetRpm s.params rpm addr) s
/-- `SEND_DUTY duty, addr`, R257. -/
def execSendDuty (duty : Binary32) (addr : Option Byte) (s : State) : Host.Outcome State Fault Refusal :=
  sendCommand (encSetDuty s.params duty addr) s
/-- `SEND_JOYSTICK x, y, buttonA, buttonB, addr`, R258. -/
def execSendJoystick (x y : I32) (buttonA buttonB : Bool) (addr : Option Byte) (s : State) :
    Host.Outcome State Fault Refusal :=
  sendCommand (encJoystick s.params x y buttonA buttonB addr) s
/-- `RUN_OPENLOOP current, erpm, addr`, R259. -/
def execRunOpenloop (current : Binary32) (erpm : I32) (addr : Option Byte) (s : State) : Host.Outcome State Fault Refusal :=
  sendCommand (encOpenloop s.params current erpm addr) s
/-- `STOP addr`, R260. -/
def execStop (addr : Option Byte) (s : State) : Host.Outcome State Fault Refusal :=
  sendCommand (encStop s.params addr) s

/-- An operation code R71 does not list (R72): `STATUS` is 9 and no other register is written. -/
def execIllegal (code : Byte) (s : State) : Host.Outcome State Fault Refusal :=
  .next (takeError (.illegalOperation code) s)

end Sys2Proof.Machine
end

