-- ==== Sys2Proof/Machine/WireUnits.lean ====
section
/-! DEFINITION. The wire-format rows of the opcode table (30_encoding.md R74, R75, R79 to R82).

They are formats, not codes of the host port (R72). What the spec lets happen to such a unit at this block, other than
the block making it (which is the encoder's and the codec's meaning), is that the transport environment appends its bytes
to the receive source (10_state.md R20 (c), 20_memory.md R58), a payload inside its frame. That is the meaning given here
(DESIGN CHOICE, notes/assumptions/14.md, safe). No register of the block is written; the receiver reads the bytes
later. -/
namespace Sys2Proof.Machine

/-- A unit with payload `p` arrives in its frame. A payload above 65535 bytes has no frame (R76), so no such unit
exists. -/
def arriveFrameOf (p : List Byte) (s : State) : Host.Outcome State Fault Refusal :=
  if p.length ≤ maxPayload then .next (arrive (frame s.params p) s) else .refused .noSuchUnit

/-- FRAME_SHORT, R74. -/
def execFrameShort (p : List Byte) (s : State) : Host.Outcome State Fault Refusal := arriveFrameOf p s
/-- FRAME_LONG, R75. -/
def execFrameLong (p : List Byte) (s : State) : Host.Outcome State Fault Refusal := arriveFrameOf p s
/-- PAYLOAD_GET_VALUES, R79. -/
def execPayloadGetValues (s : State) : Host.Outcome State Fault Refusal := arriveFrameOf (getValuesPayload s.params) s
/-- PAYLOAD_SET_DUTY, R79. -/
def execPayloadSetDuty (duty : BitVec 32) (s : State) : Host.Outcome State Fault Refusal :=
  arriveFrameOf (setDutyPayload s.params (be32 duty)) s
/-- PAYLOAD_SET_CURRENT, R79. -/
def execPayloadSetCurrent (current : BitVec 32) (s : State) : Host.Outcome State Fault Refusal :=
  arriveFrameOf (setCurrentPayload s.params (be32 current)) s
/-- PAYLOAD_SET_CURRENT_BRAKE, R79. -/
def execPayloadSetCurrentBrake (current : BitVec 32) (s : State) : Host.Outcome State Fault Refusal :=
  arriveFrameOf (setBrakePayload s.params (be32 current)) s
/-- PAYLOAD_SET_RPM, R79. -/
def execPayloadSetRpm (rpm : BitVec 32) (s : State) : Host.Outcome State Fault Refusal :=
  arriveFrameOf (setRpmPayload s.params rpm) s
/-- PAYLOAD_FORWARD, R80. -/
def execPayloadForward (addr : Byte) (inner : List Byte) (s : State) : Host.Outcome State Fault Refusal :=
  arriveFrameOf (envelope s.params addr inner) s
/-- PAYLOAD_SET_CHUCK_DATA, R79. -/
def execPayloadSetChuckData (x y : Byte) (buttonA buttonB : Bool) (s : State) : Host.Outcome State Fault Refusal :=
  arriveFrameOf (chuckPayload s.params x y buttonA buttonB) s
/-- PAYLOAD_PING_CAN, R79. -/
def execPayloadPingCan (s : State) : Host.Outcome State Fault Refusal := arriveFrameOf (scanPayload s.params) s
/-- PAYLOAD_OPENLOOP, R79. -/
def execPayloadOpenloop (current erpm : BitVec 32) (s : State) : Host.Outcome State Fault Refusal :=
  arriveFrameOf (openloopPayload s.params (be32 current) erpm) s
/-- PAYLOAD_STOP, R79. -/
def execPayloadStop (s : State) : Host.Outcome State Fault Refusal := arriveFrameOf (stopPayload s.params) s
/-- REPLY_TELEMETRY, R81. -/
def execReplyTelemetry (t : Telem) (s : State) : Host.Outcome State Fault Refusal :=
  arriveFrameOf (telemetryReplyPayload s.params t) s
/-- REPLY_SCAN, R82. -/
def execReplyScan (addrs : List Byte) (s : State) : Host.Outcome State Fault Refusal :=
  arriveFrameOf (scanReplyPayload s.params addrs) s

end Sys2Proof.Machine
end

