-- ==== Sys2Proof/Machine/Dispatch.lean ====
section
/-! DEFINITION. Which meaning each instruction has: one arm per constructor. -/
namespace Sys2Proof.Machine

def exec (i : Instr) (s : State) : Host.Outcome State Fault Refusal :=
  match i with
  | .crcInit => Sys2Proof.Machine.execCrcInit s
  | .crcByte b => Sys2Proof.Machine.execCrcByte b s
  | .crcBlock bs => Sys2Proof.Machine.execCrcBlock bs s
  | .crcCheck bs expected => Sys2Proof.Machine.execCrcCheck bs expected s
  | .frameBuild payload => Sys2Proof.Machine.execFrameBuild payload s
  | .frameSend payload => Sys2Proof.Machine.execFrameSend payload s
  | .rxReceive deadline => Sys2Proof.Machine.execRxReceive deadline s
  | .rxValidate payload crc => Sys2Proof.Machine.execRxValidate payload crc s
  | .encGetValues addr => Sys2Proof.Machine.execEncGetValues addr s
  | .encScan => Sys2Proof.Machine.execEncScan s
  | .encOpenloop current erpm addr => Sys2Proof.Machine.execEncOpenloop current erpm addr s
  | .encStop addr => Sys2Proof.Machine.execEncStop addr s
  | .encJoystick x y buttonA buttonB addr => Sys2Proof.Machine.execEncJoystick x y buttonA buttonB addr s
  | .encSetCurrent current addr => Sys2Proof.Machine.execEncSetCurrent current addr s
  | .encSetBrake current addr => Sys2Proof.Machine.execEncSetBrake current addr s
  | .encSetRpm rpm addr => Sys2Proof.Machine.execEncSetRpm rpm addr s
  | .encSetDuty duty addr => Sys2Proof.Machine.execEncSetDuty duty addr s
  | .fwdWrap addr inner => Sys2Proof.Machine.execFwdWrap addr inner s
  | .decTelemetry payload => Sys2Proof.Machine.execDecTelemetry payload s
  | .decScanReply payload => Sys2Proof.Machine.execDecScanReply payload s
  | .readTelemetry => Sys2Proof.Machine.execReadTelemetry s
  | .requestTelemetry addr => Sys2Proof.Machine.execRequestTelemetry addr s
  | .scanForControllers => Sys2Proof.Machine.execScanForControllers s
  | .sendCurrent current addr => Sys2Proof.Machine.execSendCurrent current addr s
  | .sendBrakeCurrent current addr => Sys2Proof.Machine.execSendBrakeCurrent current addr s
  | .sendRpm rpm addr => Sys2Proof.Machine.execSendRpm rpm addr s
  | .sendDuty duty addr => Sys2Proof.Machine.execSendDuty duty addr s
  | .sendJoystick x y buttonA buttonB addr => Sys2Proof.Machine.execSendJoystick x y buttonA buttonB addr s
  | .runOpenloop current erpm addr => Sys2Proof.Machine.execRunOpenloop current erpm addr s
  | .stop addr => Sys2Proof.Machine.execStop addr s
  | .illegal code => Sys2Proof.Machine.execIllegal code s
  | .frameShort payload => Sys2Proof.Machine.execFrameShort payload s
  | .frameLong payload => Sys2Proof.Machine.execFrameLong payload s
  | .payloadGetValues => Sys2Proof.Machine.execPayloadGetValues s
  | .payloadSetDuty duty => Sys2Proof.Machine.execPayloadSetDuty duty s
  | .payloadSetCurrent current => Sys2Proof.Machine.execPayloadSetCurrent current s
  | .payloadSetCurrentBrake current => Sys2Proof.Machine.execPayloadSetCurrentBrake current s
  | .payloadSetRpm rpm => Sys2Proof.Machine.execPayloadSetRpm rpm s
  | .payloadForward addr inner => Sys2Proof.Machine.execPayloadForward addr inner s
  | .payloadSetChuckData x y buttonA buttonB => Sys2Proof.Machine.execPayloadSetChuckData x y buttonA buttonB s
  | .payloadPingCan => Sys2Proof.Machine.execPayloadPingCan s
  | .payloadOpenloop current erpm => Sys2Proof.Machine.execPayloadOpenloop current erpm s
  | .payloadStop => Sys2Proof.Machine.execPayloadStop s
  | .replyTelemetry fields => Sys2Proof.Machine.execReplyTelemetry fields s
  | .replyScan addrs => Sys2Proof.Machine.execReplyScan addrs s

end Sys2Proof.Machine
end

