-- ==== Sys2Proof/Machine/HostPort.lean ====
section
/-! DEFINITION. The ports: what a presented unit does, what each act of the schedule does (10_state.md R20,
60_exceptions.md R290), and where a word of the opcode table is presented. `step` only calls these. -/
namespace Sys2Proof.Machine

/-- A unit presented at a channel: it is decoded and run. Bytes presented after a complete unit are dropped and the unit
runs (DESIGN CHOICE, notes/assumptions/28.md, safe: 30_encoding.md R70 gives the port one operation with a typed record,
so the spec has no such bytes); bytes that hold no complete unit are refused (notes/assumptions/18.md). -/
def presentUnit (c : Channel) (bytes : List Byte) (s : State) : Host.Outcome State Fault Refusal :=
  match decode s.params c bytes with
  | some (i, _) => exec i s
  | none => .refused .noSuchUnit

/-- The host port is taken (R316: it is blocking): an operation presented now waits, and the block goes on with the one
in progress (notes/assumptions/13.md). -/
def portBusy (c : Channel) (s : State) : Bool := c = .host && s.activity ≠ .idle

/-- The next act of the schedule, or the block's own step where none is left. -/
def nextAct (s : State) : Host.Outcome State Fault Refusal :=
  match s.schedule with
  | [] => blockStep s
  | .present c bytes :: rest =>
    if portBusy c s then blockStep s else presentUnit c bytes { s with schedule := rest }
  | .arrive bs :: rest => .next (arrive bs { s with schedule := rest })
  | .advance n :: rest => .next (advanceClock n { s with schedule := rest })
  | .blockStep :: rest => blockStep { s with schedule := rest }
  | .reset :: rest => .next (applyReset { s with schedule := rest })

/-- The state with a table word next at its channel, and the host port free for it. -/
def placeTableWord (s : State) (nbits w : Nat) : State :=
  { s with
    activity := .idle
    schedule := .present (tableWordChannel nbits w) (tableBytes nbits w) :: s.schedule }

end Sys2Proof.Machine
end

