-- ==== Sys2Proof/Machine/Step.lean ====
section
/-! DEFINITION. One step of the machine: the next act of some agent (10_state.md R20), in an instantiation that meets
00_scope.md R8. -/
namespace Sys2Proof.Machine

/-- One step. -/
def step (s : State) : Host.Outcome State Fault Refusal :=
  if s.params.valid then nextAct s else .refused .badInstantiation

/-- `s` with a word of spec/opcode_table.json as its next presented unit (notes/assumptions/17.md). -/
def State.withFetchWord (s : State) (nbits w : Nat) : State := placeTableWord s nbits w

end Sys2Proof.Machine
end

