-- ==== Sys2Proof/Machine/HostText.lean ====
section
/-! DEFINITION. The textual syntax of a host operation: 30_encoding.md R73. The mnemonics are those of
spec/opcode_table.json. -/
namespace Sys2Proof.Machine

/-- A row's mnemonic. -/
def mnemonic : Instr → String
  | .crcInit => "CRC_INIT"
  | .crcByte _ => "CRC_BYTE"
  | .crcBlock _ => "CRC_BLOCK"
  | .crcCheck _ _ => "CRC_CHECK"
  | .frameBuild _ => "FRAME_BUILD"
  | .frameSend _ => "FRAME_SEND"
  | .rxReceive _ => "RX_RECEIVE"
  | .rxValidate _ _ => "RX_VALIDATE"
  | .encGetValues _ => "ENC_GET_VALUES"
  | .encScan => "ENC_SCAN"
  | .encOpenloop _ _ _ => "ENC_OPENLOOP"
  | .encStop _ => "ENC_STOP"
  | .encJoystick _ _ _ _ _ => "ENC_JOYSTICK"
  | .encSetCurrent _ _ => "ENC_SET_CURRENT"
  | .encSetBrake _ _ => "ENC_SET_BRAKE"
  | .encSetRpm _ _ => "ENC_SET_RPM"
  | .encSetDuty _ _ => "ENC_SET_DUTY"
  | .fwdWrap _ _ => "FWD_WRAP"
  | .decTelemetry _ => "DEC_TELEMETRY"
  | .decScanReply _ => "DEC_SCAN_REPLY"
  | .readTelemetry => "READ_TELEMETRY"
  | .requestTelemetry _ => "REQUEST_TELEMETRY"
  | .scanForControllers => "SCAN_FOR_CONTROLLERS"
  | .sendCurrent _ _ => "SEND_CURRENT"
  | .sendBrakeCurrent _ _ => "SEND_BRAKE_CURRENT"
  | .sendRpm _ _ => "SEND_RPM"
  | .sendDuty _ _ => "SEND_DUTY"
  | .sendJoystick _ _ _ _ _ => "SEND_JOYSTICK"
  | .runOpenloop _ _ _ => "RUN_OPENLOOP"
  | .stop _ => "STOP"
  | .illegal _ => "ILLEGAL"
  | .frameShort _ => "FRAME_SHORT"
  | .frameLong _ => "FRAME_LONG"
  | .payloadGetValues => "PAYLOAD_GET_VALUES"
  | .payloadSetDuty _ => "PAYLOAD_SET_DUTY"
  | .payloadSetCurrent _ => "PAYLOAD_SET_CURRENT"
  | .payloadSetCurrentBrake _ => "PAYLOAD_SET_CURRENT_BRAKE"
  | .payloadSetRpm _ => "PAYLOAD_SET_RPM"
  | .payloadForward _ _ => "PAYLOAD_FORWARD"
  | .payloadSetChuckData _ _ _ _ => "PAYLOAD_SET_CHUCK_DATA"
  | .payloadPingCan => "PAYLOAD_PING_CAN"
  | .payloadOpenloop _ _ => "PAYLOAD_OPENLOOP"
  | .payloadStop => "PAYLOAD_STOP"
  | .replyTelemetry _ => "REPLY_TELEMETRY"
  | .replyScan _ => "REPLY_SCAN"

/-- A digit's character, in bases up to 16. -/
def digitChar (d : Nat) : Char := if d < 10 then Char.ofNat (48 + d) else Char.ofNat (55 + d)

/-- Decimal digits, on fuel. -/
def decimalDigits : Nat → Nat → List Char
  | 0, _ => []
  | fuel + 1, n => if n < 10 then [digitChar n] else decimalDigits fuel (n / 10) ++ [digitChar (n % 10)]

/-- A natural number in decimal. -/
def natText (n : Nat) : List Char := decimalDigits (n.log2 + 1) n

/-- An `i32` as a decimal integer. -/
def intText (v : I32) : List Char :=
  if v.toInt < 0 then '-' :: natText v.toInt.natAbs else natText v.toInt.natAbs

/-- A byte, `0xHH`. -/
def byteText (b : Byte) : List Char := ['0', 'x', digitChar (b.toNat / 16), digitChar (b.toNat % 16)]

/-- A 16-bit value, `0xHHHH`. -/
def wordText (v : BitVec 16) : List Char :=
  ['0', 'x', digitChar (v.toNat / 4096), digitChar (v.toNat / 256 % 16), digitChar (v.toNat / 16 % 16),
   digitChar (v.toNat % 16)]

/-- A byte sequence, `[0xHH, 0xHH, ...]`. -/
def bytesText (s : List Byte) : List Char := ['['] ++ List.intercalate [',', ' '] (s.map byteText) ++ [']']

/-- The decimal digits of the fraction `r / 2^149`, which end. -/
def fractionDigits : Nat → Nat → List Char
  | 0, _ => []
  | fuel + 1, r =>
    let d := digitChar (10 * r / 2 ^ 149)
    let r' := 10 * r % 2 ^ 149
    if r' = 0 then [d] else d :: fractionDigits fuel r'

/-- A finite binary32 value as the decimal literal that is exactly it; an infinity or a NaN has none. -/
def binary32Text (v : Binary32) : Option (List Char) :=
  if finite v then
    let a := (real149 v).natAbs
    some ((if v.msb then ['-'] else []) ++ natText (a / 2 ^ 149) ++ ['.'] ++ fractionDigits 149 (a % 2 ^ 149))
  else none

/-- A boolean. -/
def boolText (b : Bool) : List Char := if b then ['t', 'r', 'u', 'e'] else ['f', 'a', 'l', 's', 'e']

/-- An optional address: `-` or `@N`. -/
def addrText : Option Byte → List Char
  | none => ['-']
  | some a => '@' :: natText a.toNat

/-- The argument texts of an operation, in the order of R71; none where R73 has no text for one (a binary32 that is
not finite) or for the unit (an illegal code, a wire unit). -/
def argTexts : Instr → Option (List (List Char))
  | .crcInit | .encScan | .readTelemetry | .scanForControllers => some []
  | .crcByte b => some [byteText b]
  | .crcBlock s | .frameBuild s | .frameSend s | .decTelemetry s | .decScanReply s => some [bytesText s]
  | .crcCheck s e => some [bytesText s, wordText e]
  | .rxReceive d => some [natText d]
  | .rxValidate p c => some [bytesText p, wordText c]
  | .encGetValues a | .encStop a | .requestTelemetry a | .stop a => some [addrText a]
  | .encOpenloop c e a | .runOpenloop c e a => (binary32Text c).map fun t => [t, intText e, addrText a]
  | .encJoystick x y p q a | .sendJoystick x y p q a =>
    some [intText x, intText y, boolText p, boolText q, addrText a]
  | .encSetCurrent c a | .encSetBrake c a | .encSetDuty c a | .sendCurrent c a | .sendBrakeCurrent c a
  | .sendDuty c a => (binary32Text c).map fun t => [t, addrText a]
  | .encSetRpm r a | .sendRpm r a => some [intText r, addrText a]
  | .fwdWrap a i => some [byteText a, bytesText i]
  | .illegal _ | .frameShort _ | .frameLong _ | .payloadGetValues | .payloadSetDuty _ | .payloadSetCurrent _
  | .payloadSetCurrentBrake _ | .payloadSetRpm _ | .payloadForward _ _ | .payloadSetChuckData _ _ _ _
  | .payloadPingCan | .payloadOpenloop _ _ | .payloadStop | .replyTelemetry _ | .replyScan _ => none

/-- The text of a host operation: the mnemonic, then its arguments separated by commas (R73). -/
def hostText (i : Instr) : Option (List Char) :=
  (argTexts i).map fun args =>
    (mnemonic i).toList ++ (if args = [] then [] else [' ']) ++ List.intercalate [',', ' '] args

end Sys2Proof.Machine
end

