-- ==== Sys2Proof/Safety.lean ====
section
/-! DEFINITION. The invariant of the block's states, and the terms the claims use. -/
namespace Sys2Proof.Machine

/-- Every byte of the container below `n` has been written. -/
def writtenBelow (m : Memory) (n : Nat) : Prop := ∀ i, i < n → (memRead m i).isSome = true

/-- Every written index of the container is below `n`. -/
def insideBelow (m : Memory) (n : Nat) : Prop := ∀ c ∈ m, c.1 < n

/-- What holds in every state a run from reset reaches, in a legal instantiation. -/
structure State.Inv (s : State) : Prop where
  /-- 00_scope.md R8. -/
  legal_parameters : s.params.valid = true
  /-- 10_state.md R35: legal values 0 to 9. -/
  status_legal : s.status.toNat ≤ 9
  /-- The canonical form of the buffers. -/
  rxbuf_canonical : s.rxbuf.wf = true
  txbuf_canonical : s.txbuf.wf = true
  /-- R27: `RXBUF` has `RX_MAX_PAYLOAD + 3` bytes. -/
  rxbuf_inside : insideBelow s.rxbuf (s.params.rxMaxPayload + 3)
  /-- R29, 20_memory.md R50 (b): `TXBUF` has `MAX_PAYLOAD + 5` bytes. -/
  txbuf_inside : insideBelow s.txbuf txbufCapacity
  txlen_bound : s.txlen.toNat ≤ maxPayload + 6
  txcount_bound : s.txcount.toNat ≤ maxPayload + 6
  /-- R29, 41_frame_encoder.md R121: the last frame is stored whole. -/
  txbuf_written : ∀ i, i < s.txlen.toNat → (txbufRead s i).isSome = true
  /-- 20_memory.md R50 (d): the bytes sent since reset are the end of the transmit stream. -/
  mark_inside : s.txMark ≤ s.txStream.length
  /-- R30, R39: the record is present exactly when `TVALID` is 1. -/
  record_present : s.tvalid = s.telem.isSome
  /-- R141, D31: an operation that waits for bytes was started with a transport. -/
  busy_transport : s.activity ≠ .idle → s.transportPresent = true
  /-- R24: `RXST` is IDLE exactly when no receive is in progress. -/
  receiver_running : s.rxst ≠ .idle ↔ ∃ r, s.activity = .receiving r
  /-- 42_frame_receiver.md R150: `DONE` is never observed between steps. -/
  never_done : s.rxst ≠ .done
  /-- R25, R146: in READ_LENGTH a length byte is still due. -/
  length_due : s.rxst = .readLength →
    s.rxlencnt.toNat < s.rxneed.toNat ∧ s.rxneed.toNat = (if s.rxkind = 0 then 1 else 2) ∧
      s.rxlen.toNat < 256 ^ s.rxlencnt.toNat
  /-- R27, R147, R149: in ACCUMULATE a byte is still due, and those before it are stored. -/
  bytes_due : s.rxst = .accumulate →
    s.rxlen.toNat ≤ s.params.rxMaxPayload ∧ s.rxcnt.toNat < s.rxlen.toNat + 3 ∧
      writtenBelow s.rxbuf s.rxcnt.toNat

/-- The register writes of `FRAME_BUILD` and `FRAME_SEND` for a payload, and the write to the transmit sink, written out
(41_frame_encoder.md R121, R122). -/
def afterSend (p : List Byte) (s : State) : State :=
  { s with
    crc := crc16 p
    txbuf := memWriteAll s.txbuf 0 ((frame s.params p).take txbufCapacity)
    txPast := (frame s.params p)[txbufCapacity]?.or s.txPast
    txlen := BitVec.ofNat 17 (frame s.params p).length
    txcount := BitVec.ofNat 17 (txCountOf (frame s.params p) s)
    txStream := s.txStream ++ (frame s.params p).take (txCountOf (frame s.params p) s)
    sinkAnswers := s.sinkAnswers.tail
    txDraws := s.txDraws + 1
    status := 0 }

/-- The operation ended with this result and status, nothing else written. -/
def ended (st : BitVec 8) (r : HostResult) (s : State) : State :=
  { s with status := st, activity := .idle, result := some r }

/-- The operation ended with an error of this code, nothing else written (60_exceptions.md R281). -/
def endedWith (st : BitVec 8) (e : BlockError) (s : State) : State := ended st (.error e) s

/-- No byte of `g` is a start marker. -/
def noMarker (P : Params) (g : List Byte) : Prop := ∀ b ∈ g, b ≠ P.markerA ∧ b ≠ P.markerB

/-- Running the receiver over `g` from `SEEK_START` consumes exactly `g` and ends in `SEEK_START` (42_frame_receiver.md
R155): a byte that is no start marker is dropped, and a candidate that a marker opens is complete within `g`, is no longer
than the receiver admits, and has no stop marker at its stop position. -/
inductive SeeksThrough (P : Params) : List Byte → Prop where
  | done : SeeksThrough P []
  | dropped (b : Byte) (g : List Byte) (hA : b ≠ P.markerA) (hB : b ≠ P.markerB) (h : SeeksThrough P g) :
      SeeksThrough P (b :: g)
  | shortCandidate (n stop : Byte) (body g : List Byte) (hn : n.toNat ≤ P.rxMaxPayload)
      (hb : body.length = n.toNat + 2) (hs : stop ≠ P.markerStop) (h : SeeksThrough P g) :
      SeeksThrough P (P.markerA :: n :: (body ++ stop :: g))
  | longCandidate (hi lo stop : Byte) (body g : List Byte) (hn : hi.toNat * 256 + lo.toNat ≤ P.rxMaxPayload)
      (hb : body.length = hi.toNat * 256 + lo.toNat + 2) (hs : stop ≠ P.markerStop) (h : SeeksThrough P g) :
      SeeksThrough P (P.markerB :: hi :: lo :: (body ++ stop :: g))

/-! ## The environment -/

/-- Acts that may stand between and around the receiver's steps (42_frame_receiver.md R142): block steps, arrivals and
clock advances, in any order. -/
def receiverActs (acts : List Event) : Prop :=
  ∀ e ∈ acts, e = .blockStep ∨ (∃ bs, e = .arrive bs) ∨ ∃ n, e = .advance n

/-- While an operation is in progress the block goes on by itself: no act is left, or a host operation waits at the busy
port (notes/assumptions/2.md, 13.md). -/
def blockGoesOn (more : List Event) : Prop := more = [] ∨ ∃ bs rest, more = .present .host bs :: rest

/-- How many of the acts are block steps. -/
def blockStepsIn : List Event → Nat
  | [] => 0
  | .blockStep :: l => blockStepsIn l + 1
  | .present _ _ :: l | .arrive _ :: l | .advance _ :: l | .reset :: l => blockStepsIn l

/-- The bytes that arrive. -/
def arrivedIn : List Event → List Byte
  | [] => []
  | .arrive bs :: l => bs ++ arrivedIn l
  | .present _ _ :: l | .blockStep :: l | .advance _ :: l | .reset :: l => arrivedIn l

/-- The bytes that arrive before the deadline `d`, the clock at `c`. -/
def arrivedBefore (d : Nat) : Nat → List Event → List Byte
  | _, [] => []
  | c, .arrive bs :: l => (if c < d then bs else []) ++ arrivedBefore d c l
  | c, .advance n :: l => arrivedBefore d (c + n) l
  | c, .present _ _ :: l | c, .blockStep :: l | c, .reset :: l => arrivedBefore d c l

/-- What the search leaves of the queue over the acts, its deadline `d` and the clock at `c`: each block step before the
deadline takes the oldest byte, where there is one (42_frame_receiver.md R143 to R145), and arrivals stand behind. -/
def searchLeaves (d : Nat) : Nat → List Byte → List Event → List Byte
  | _, q, [] => q
  | c, q, .blockStep :: l => searchLeaves d c (if c < d then q.tail else q) l
  | c, q, .arrive bs :: l => searchLeaves d c (q ++ bs) l
  | c, q, .advance n :: l => searchLeaves d (c + n) q l
  | c, q, .present _ _ :: l | c, q, .reset :: l => searchLeaves d c q l

/-- How far the clock advances. -/
def advancedIn : List Event → Nat
  | [] => 0
  | .advance n :: l => n + advancedIn l
  | .present _ _ :: l | .blockStep :: l | .arrive _ :: l | .reset :: l => advancedIn l

/-- An unending run of the block in its environment: for each step host, environment or reset names one act, or the block
steps (10_state.md R20). An operation named while the port is busy is not taken (notes/assumptions/13.md). The finite
schedule of a state is a beginning of such a run (notes/assumptions/25.md). -/
def OpenRun (env : Nat → Event) (σ : Nat → State) : Prop :=
  ∀ n, step { σ n with schedule := [env n] } = .next (σ (n + 1))

/-- The act is a step of the block: named as one, or an operation that waits at the busy port while the block steps. -/
def blockTurn (e : Event) (s : State) : Prop := e = .blockStep ∨ ∃ bs, e = .present .host bs ∧ s.activity ≠ .idle

/-- The block steps again and again. -/
def BlockStepsForever (env : Nat → Event) (σ : Nat → State) : Prop := ∀ n, ∃ m, n ≤ m ∧ blockTurn (env m) (σ m)

/-- The assumption on the environment that 42_frame_receiver.md R157 asks a model to state: the clock is monotonic, and it
is unbounded under weak fairness: in no run do infinitely many steps occur while the clock stays below a deadline. -/
structure FairClock (env : Nat → Event) (σ : Nat → State) : Prop where
  monotonic : ∀ m n, m ≤ n → (σ m).clock ≤ (σ n).clock
  unbounded : BlockStepsForever env σ → ∀ d, ∃ n, d ≤ (σ n).clock

end Sys2Proof.Machine
end

