-- ==== Sys2Proof/Certificates/Slice0/Obligations.lean ====
section
/-! DEFINITION. The statements for the provers. -/
open Sys2Proof Sys2Proof.Machine

/-! ## Ports, decoding, encoding -/

/-- 10_state.md R20, 70_reset_and_hazards.md R312: what a step does is the next act of the schedule. A unit presented
while its port is free is decoded and run as `exec` says, on the state with that act taken off the schedule. The schedule
is notes/assumptions/2.md (DESIGN CHOICE); that bytes `more` behind a complete unit are dropped and the unit runs is
notes/assumptions/28.md (DESIGN CHOICE). -/
def Obligations.StepRunsPresentedUnit : Prop :=
  ∀ (s : State) (c : Channel) (bytes more : List Byte) (rest : List Event) (i : Instr),
    s.params.valid = true → s.schedule = .present c bytes :: rest → (c = .host → s.activity = .idle) →
    decode s.params c bytes = some (i, more) → step s = exec i { s with schedule := rest }

/-- R20, R55, R312, R316 and notes/assumptions/2.md, 13.md: every other act. The transport appends bytes, the clock
advances, the block takes its step, and a block that is busy goes on while an operation waits at its port. -/
def Obligations.StepPerformsOtherActs : Prop :=
  ∀ (s : State) (rest : List Event), s.params.valid = true →
    (∀ bs, s.schedule = .arrive bs :: rest → step s = .next { s with schedule := rest, rxQueue := s.rxQueue ++ bs }) ∧
    (∀ n, s.schedule = .advance n :: rest → step s = .next { s with schedule := rest, clock := s.clock + n }) ∧
    (s.schedule = .blockStep :: rest → step s = blockStep { s with schedule := rest }) ∧
    (∀ bs, s.schedule = .present .host bs :: rest → s.activity ≠ .idle → step s = blockStep s) ∧
    (s.schedule = [] → step s = blockStep s) ∧
    (s.schedule = [] → s.activity = .idle → step s = .next s)

/-- 00_scope.md R8, 70_reset_and_hazards.md R313: each constraint of R8 written out (the forwarding identifier against the
eight identifiers an addressed command wraps: notes/assumptions/21.md), and an instantiation that breaks one is
refused. -/
def Obligations.IllegalInstantiationsAreRefused : Prop :=
  (∀ P : Params, P.valid = true ↔
    P.markerA ≠ P.markerB ∧ 1 ≤ P.rxMaxPayload ∧ P.rxMaxPayload ≤ 65535 ∧
    0 < P.currentScale ∧ 0 < P.brakeScale ∧ 0 < P.dutyScale ∧ 0 < P.openloopCurrentScale ∧
    P.idGetValues ≠ P.idForward ∧ P.idSetDuty ≠ P.idForward ∧ P.idSetCurrent ≠ P.idForward ∧
    P.idSetCurrentBrake ≠ P.idForward ∧ P.idSetRpm ≠ P.idForward ∧ P.idSetChuckData ≠ P.idForward ∧
    P.idOpenloop ≠ P.idForward ∧ P.idStop ≠ P.idForward ∧
    (∀ f : TelemField, 1 ≤ P.layout.offset f) ∧
    (∀ f g : TelemField, f ≠ g → ∀ k l : Nat, k < f.bytes → l < g.bytes →
      P.layout.offset f + k ≠ P.layout.offset g + l)) ∧
  (∀ s : State, s.params.valid = false → step s = .refused .badInstantiation)

/-- Host operations: decoding the bytes of a well-formed operation, whatever follows them, gives it back with every
argument (30_encoding.md R71; the argument bytes are notes/assumptions/1.md). -/
def Obligations.HostDecodeInvertsEncode : Prop :=
  ∀ (P : Params) (i : Instr) (more : List Byte), i.wellFormed = true → i.channel = .host →
    decode P .host (encode P i ++ more) = some (i, more)

/-- Frames (30_encoding.md R74 to R76): decoding the bytes of a frame, whatever follows them, gives it back. -/
def Obligations.FrameDecodeInvertsEncode : Prop :=
  ∀ (P : Params) (i : Instr) (more : List Byte), P.valid = true → i.wellFormed = true → i.channel = .frame →
    decode P .frame (encode P i ++ more) = some (i, more)

/-- Payloads and replies (R79 to R82) under any legal layout and any identifiers that are pairwise different. -/
def Obligations.PayloadDecodeInvertsEncode : Prop :=
  ∀ (P : Params) (i : Instr), P.valid = true → P.idsDistinct = true → i.wellFormed = true →
    (i.channel = .payload ∨ i.channel = .reply) → decode P i.channel (encode P i) = some (i, [])

/-- Words written out from the spec's encodings (30_encoding.md R71, R74, R79, R80, R82); the argument byte of the second,
`CRC_BYTE`, stands where notes/assumptions/1.md (DESIGN CHOICE) puts it. -/
def Obligations.SampleWordsDecode : Prop :=
  decode .pRef .host [0x01] = some (.crcInit, []) ∧
  decode .pRef .host [0x02, 0x31] = some (.crcByte 0x31, []) ∧
  decode .pRef .host [0x42] = some (.readTelemetry, []) ∧
  decode .pRef .host [0x07] = some (.illegal 0x07, []) ∧
  decode .pRef .frame [0x02, 0x01, 0x04, 0x40, 0x84, 0x03] = some (.frameShort [0x04], []) ∧
  decode .pRef .payload [0x06, 0x00, 0x00, 0x04, 0xE2] = some (.payloadSetCurrent 1250, []) ∧
  decode .pRef .payload [0x22, 0x01, 0x01, 0x04] = some (.payloadForward 0x01 [0x04], []) ∧
  decode .pRef .reply [0x3E, 0x01, 0x05] = some (.replyScan [0x01, 0x05], [])

/-- 30_encoding.md R72: the thirty codes of R71 are legal and every other one is illegal; an illegal operation writes
`STATUS <- 9` and no other register (its error is presented, 60_exceptions.md R280). -/
def Obligations.UnlistedCodesAreIllegal : Prop :=
  (∀ (P : Params) (op : Byte) (l : List Byte),
    (op.toNat = 0x00 ∨ (0x05 ≤ op.toNat ∧ op.toNat ≤ 0x0F) ∨ (0x12 ≤ op.toNat ∧ op.toNat ≤ 0x1F) ∨
      (0x22 ≤ op.toNat ∧ op.toNat ≤ 0x2F) ∨ (0x39 ≤ op.toNat ∧ op.toNat ≤ 0x3E) ∨
      (0x43 ≤ op.toNat ∧ op.toNat ≤ 0x4F) ∨ (0x59 ≤ op.toNat ∧ op.toNat ≤ 0xFF)) →
    decode P .host (op :: l) = some (.illegal op, l)) ∧
  (∀ (P : Params) (op : Byte) (l more : List Byte) (c : Byte),
    decode P .host (op :: l) = some (.illegal c, more) → c = op ∧ legalCodes.contains op = false) ∧
  (∀ (c : Byte) (s : State), s.activity = .idle →
    exec (.illegal c) s = .next { s with status := 9, result := some (.error (.illegalOperation c)) })

/-! ## Reset -/

/-- 10_state.md R38: the reset values the spec gives, and a record that holds no value (R39). -/
def Obligations.ResetLeavesTheRuleValues : Prop :=
  State.reset.crc = 0x0000 ∧ State.reset.status = 0 ∧ rxstCode State.reset.rxst = 0 ∧ State.reset.rxkind = 0 ∧
  State.reset.rxneed = 0 ∧ State.reset.rxlencnt = 0 ∧ State.reset.rxlen = 0 ∧ State.reset.rxcnt = 0 ∧
  State.reset.deadline = 0 ∧ State.reset.txlen = 0 ∧ State.reset.txcount = 0 ∧ State.reset.tvalid = false ∧
  State.reset.telem = none

/-- 70_reset_and_hazards.md R310, R311: a reset, asserted at any time, a receive in progress or not, returns the
registers to R38 and leaves the receive queue, the transmit stream, the clock and the parameters; of the stream, nothing
has been sent since reset (20_memory.md R50 (d), notes/assumptions/10.md). The reset act is notes/assumptions/2.md; that
the result of an operation that had ended is no longer presented is notes/assumptions/16.md (DESIGN CHOICE): R311 says it
of the receive it abandons. -/
def Obligations.ResetEventKeepsTheTransport : Prop :=
  ∀ (s : State) (rest : List Event), s.params.valid = true → s.schedule = .reset :: rest →
    ∃ t, step s = .next t ∧
      t.crc = 0x0000 ∧ t.status = 0 ∧ t.rxst = .idle ∧ t.rxkind = 0 ∧ t.rxneed = 0 ∧ t.rxlencnt = 0 ∧ t.rxlen = 0 ∧
      t.rxcnt = 0 ∧ t.deadline = 0 ∧ t.txlen = 0 ∧ t.txcount = 0 ∧ t.tvalid = false ∧ t.telem = none ∧
      t.activity = .idle ∧ t.result = none ∧
      t.rxQueue = s.rxQueue ∧ t.txStream = s.txStream ∧ sentSinceReset t = [] ∧ t.clock = s.clock ∧ t.params = s.params ∧
      t.transportPresent = s.transportPresent ∧ t.schedule = rest

/-! ## The invariant -/

/-- The invariant holds after reset. -/
def Obligations.InvariantAtReset : Prop := State.reset.Inv

/-- Every step keeps the invariant, from any state that has it (10_state.md R24 to R27, R30, R35, R39; 42_frame_receiver.md
R146 to R151). -/
def Obligations.EveryStepKeepsInvariant : Prop :=
  ∀ s t : State, s.Inv → step s = .next t → t.Inv

/-- No step from a state of the invariant faults: no unwritten field is read (R39), no buffer index is outside (R27), the
receiver always has a transition (R142); and no instruction refuses but a wire unit whose payload has no frame. -/
def Obligations.NoFaultUnderInvariant : Prop :=
  ∀ s : State, s.Inv →
    (∀ f : Fault, step s ≠ .fault f) ∧ (∀ f : Refusal, blockStep s ≠ .refused f) ∧
    (∀ (i : Instr) (f : Fault), exec i s ≠ .fault f) ∧
    (∀ (i : Instr) (f : Refusal), i.channel = .host → exec i s ≠ .refused f)

/-! ## Rules about the whole machine -/

/-- 20_memory.md R64, 10_state.md R35, 60_exceptions.md R289: no step changes a parameter or the static transport input, and
the clock never goes back. -/
def Obligations.ParametersStayAndClockAdvances : Prop :=
  ∀ s t : State, step s = .next t →
    t.params = s.params ∧ t.transportPresent = s.transportPresent ∧ s.clock ≤ t.clock

/-- 20_memory.md R56: what has been sent cannot be undone; every step leaves the transmit stream or appends to it. R50 (d):
the same of the bytes sent since reset, which a reset counts anew (notes/assumptions/10.md). -/
def Obligations.TransmitStreamOnlyGrows : Prop :=
  ∀ s t : State, step s = .next t →
    ∃ more, t.txStream = s.txStream ++ more ∧
      (∀ rest, s.schedule = .reset :: rest → more = [] ∧ sentSinceReset t = []) ∧
      ((∀ rest, s.schedule ≠ .reset :: rest) → s.Inv → sentSinceReset t = sentSinceReset s ++ more)

/-- 20_memory.md R58, 10_state.md R37: the receive queue is first-in first-out: a step appends at its end or takes one
byte, the oldest; nothing else touches it, so nothing flushes it. -/
def Obligations.ReceiveQueueIsFifo : Prop :=
  ∀ s t : State, step s = .next t →
    (∃ more, t.rxQueue = s.rxQueue ++ more) ∨ (∃ b, s.rxQueue = b :: t.rxQueue)

/-- 10_state.md R30, R32, 42_frame_receiver.md R152, 60_exceptions.md R281: a step that changes `TELEM` or `TVALID` is a
reset; or it runs a presented `DEC_TELEMETRY` whose payload decodes; or it takes the stop byte of the reply that a
`REQUEST_TELEMETRY` has assembled, whose CRC matches and whose payload decodes. Either way the record is the decoded one,
whole, and the operation has ended with `STATUS` 0. -/
def Obligations.TelemetryChangesOnlyByDecodeOrReset : Prop :=
  ∀ s t : State, step s = .next t → (t.telem ≠ s.telem ∨ t.tvalid ≠ s.tvalid) →
    (∃ rest, s.schedule = .reset :: rest ∧ t.tvalid = false ∧ t.telem = none) ∨
    (∃ m : Telem, t.telem = some m ∧ t.tvalid = true ∧ t.status = 0 ∧ t.activity = .idle ∧
      ((∃ (c : Channel) (bytes more p : List Byte) (rest : List Event), s.schedule = .present c bytes :: rest ∧
          decode s.params c bytes = some (.decTelemetry p, more) ∧ telemetryOf s.params p = .ok m) ∨
        (s.activity = .receiving .requestTelemetry ∧ s.rxst = .accumulate ∧ s.clock < s.deadline ∧
          s.rxcnt.toNat = s.rxlen.toNat + 2 ∧ s.rxQueue = s.params.markerStop :: t.rxQueue ∧
          ∃ p : List Byte, p = memReadAll s.rxbuf 0 s.rxlen.toNat ∧
            crc16 p = ofBe16 (memByte s.rxbuf p.length) (memByte s.rxbuf (p.length + 1)) ∧
            telemetryOf s.params p = .ok m)))

/-- 10_state.md R28: while a receive goes on, no step but a reset moves its deadline. -/
def Obligations.DeadlineIsNeverExtended : Prop :=
  ∀ (s t : State) (r : Receiver), s.activity = .receiving r → step s = .next t →
    t.deadline = s.deadline ∨ ∃ rest, s.schedule = .reset :: rest

/-! ## The CRC engine -/

/-- 40_crc.md R102 to R104: `CRC_INIT`, `CRC_BYTE` and `CRC_BLOCK`, with their codes, complete in every state, with
`STATUS` 0, the results named, and no other register written. -/
def Obligations.CrcOperationsComplete : Prop :=
  ∀ s : State,
    ((encode s.params .crcInit).head? = some 0x01 ∧
      exec .crcInit s = .next (ended 0 .done { s with crc := 0x0000 })) ∧
    (∀ b, (encode s.params (.crcByte b)).head? = some 0x02 ∧
      exec (.crcByte b) s = .next (ended 0 (.crc (crcByte s.crc b)) { s with crc := crcByte s.crc b })) ∧
    (∀ bs, (encode s.params (.crcBlock bs)).head? = some 0x03 ∧
      exec (.crcBlock bs) s = .next (ended 0 (.crc (crc16 bs)) { s with crc := crc16 bs }))

/-- 40_crc.md R106 (a): the register is the whole state of the engine. -/
def Obligations.CrcOfConcatenation : Prop :=
  ∀ x y : List Byte, crc16 (x ++ y) = y.foldl crcByte (crc16 x)

/-- 40_crc.md R106 (b): linearity over inputs of one length. -/
def Obligations.CrcIsLinear : Prop :=
  ∀ x y : List Byte, x.length = y.length → crc16 (List.zipWith (· ^^^ ·) x y) = crc16 x ^^^ crc16 y

/-- 40_crc.md R105: `CRC_CHECK`, with its code, completes in every state with `STATUS` 0, whether or not the values match;
a sequence followed by its own CRC has residue zero, so the check of it against 0 matches. -/
def Obligations.CrcCheckAndResidue : Prop :=
  ∀ (s : State) (x : List Byte),
    (∀ e, (encode s.params (.crcCheck x e)).head? = some 0x04 ∧
      exec (.crcCheck x e) s = .next (ended 0 (.isMatch (decide (crc16 x = e))) { s with crc := crc16 x })) ∧
    exec (.crcCheck (x ++ be16 (crc16 x)) 0) s = .next (ended 0 (.isMatch true) { s with crc := 0 })

/-- 40_crc.md R106 (c), 42_frame_receiver.md R159: one bit flipped in a payload or in its CRC field makes `RX_VALIDATE`
end in `CrcMismatch`. -/
def Obligations.SingleBitErrorDetected : Prop :=
  ∀ (p : List Byte) (s : State),
    (∀ (j k : Nat) (hj : j < p.length), k < 8 →
      ∃ t, exec (.rxValidate (p.set j (p[j] ^^^ (1#8 <<< k))) (crc16 p)) s = .next t ∧ t.status = 4) ∧
    (∀ k : Nat, k < 16 → ∃ t, exec (.rxValidate p (crc16 p ^^^ (1#16 <<< k))) s = .next t ∧ t.status = 4)

/-- 00_scope.md R7 (`CRC_POLY`, the generator polynomial), 40_crc.md R100, R101: `crc16` is the remainder of the message,
its first bit the most significant of its first byte, times `x^16`, by `x^16 + x^12 + x^5 + 1` over GF(2). -/
def Obligations.CrcIsPolynomialRemainder : Prop :=
  ∀ m : List Byte, ∃ q : Polynomial (ZMod 2),
    (∑ j ∈ Finset.range m.length, ∑ k ∈ Finset.range 8,
        if (byteAt m j).getLsbD k then (Polynomial.X : Polynomial (ZMod 2)) ^ (8 * (m.length - 1 - j) + k) else 0)
      * Polynomial.X ^ 16 =
    q * (Polynomial.X ^ 16 + Polynomial.X ^ 12 + Polynomial.X ^ 5 + 1) +
      ∑ k ∈ Finset.range 16, if (crc16 m).getLsbD k then (Polynomial.X : Polynomial (ZMod 2)) ^ k else 0

/-! ## The frame encoder -/

/-- 30_encoding.md R74, R75: every byte of a short frame and of a long frame, by index. -/
def Obligations.FrameBytesByIndex : Prop :=
  ∀ (P : Params) (p : List Byte),
    (p.length < 256 →
      (frame P p).length = p.length + 5 ∧
      (frame P p)[0]? = some P.markerA ∧
      (frame P p)[1]? = some (BitVec.ofNat 8 p.length) ∧
      (∀ i, i < p.length → (frame P p)[2 + i]? = p[i]?) ∧
      (frame P p)[p.length + 2]? = some ((crc16 p).extractLsb' 8 8) ∧
      (frame P p)[p.length + 3]? = some ((crc16 p).extractLsb' 0 8) ∧
      (frame P p)[p.length + 4]? = some P.markerStop) ∧
    (256 ≤ p.length → p.length ≤ 65535 →
      (frame P p).length = p.length + 6 ∧
      (frame P p)[0]? = some P.markerB ∧
      (frame P p)[1]? = some (BitVec.ofNat 8 (p.length / 256)) ∧
      (frame P p)[2]? = some (BitVec.ofNat 8 (p.length % 256)) ∧
      (∀ i, i < p.length → (frame P p)[3 + i]? = p[i]?) ∧
      (frame P p)[p.length + 3]? = some ((crc16 p).extractLsb' 8 8) ∧
      (frame P p)[p.length + 4]? = some ((crc16 p).extractLsb' 0 8) ∧
      (frame P p)[p.length + 5]? = some P.markerStop)

/-- 30_encoding.md R76, R86: a frame at the head of a byte stream says where it ends and what it carries. -/
def Obligations.FramesAreSelfDelimiting : Prop :=
  ∀ (P : Params) (p q x y : List Byte), P.valid = true → p.length ≤ 65535 → q.length ≤ 65535 →
    frame P p ++ x = frame P q ++ y → p = q ∧ x = y

/-- 41_frame_encoder.md R121: `FRAME_BUILD` in every state and on every payload; `TXBUF[0..len)` holds the frame, every byte
of it (`txbufRead`: notes/assumptions/9.md, DEDUCED), and past it `TXBUF` is as it was (notes/assumptions/23.md,
DEDUCED). -/
def Obligations.FrameBuildCompletes : Prop :=
  ∀ (p : List Byte) (s : State),
    (encode s.params (.frameBuild p)).head? = some 0x10 ∧
    (65535 < p.length → exec (.frameBuild p) s = .next (endedWith 1 (.encodingTooLarge p.length) s)) ∧
    (p.length ≤ 65535 →
      ∃ t, exec (.frameBuild p) s = .next t ∧
        t = ended 0 (.frame (frame s.params p))
          { s with crc := crc16 p, txbuf := t.txbuf, txPast := t.txPast, txlen := BitVec.ofNat 17 (frame s.params p).length } ∧
        t.txlen.toNat = (frame s.params p).length ∧
        (∀ i, txbufRead t i = if i < (frame s.params p).length then (frame s.params p)[i]? else txbufRead s i))

/-- 41_frame_encoder.md R122: `FRAME_SEND` in every state and on every payload: the transport check first, then the
length, then the frame is built and offered once; the count is what the sink accepted, and a short one is no error. The
answer in store is notes/assumptions/5.md (DESIGN CHOICE); `TXBUF` is as in `FrameBuildCompletes` (notes/assumptions/9.md,
23.md). -/
def Obligations.FrameSendCompletes : Prop :=
  ∀ (p : List Byte) (s : State),
    (encode s.params (.frameSend p)).head? = some 0x11 ∧
    (s.transportPresent = false → exec (.frameSend p) s = .next (endedWith 6 .transportUnavailable s)) ∧
    (s.transportPresent = true → 65535 < p.length →
      exec (.frameSend p) s = .next (endedWith 1 (.encodingTooLarge p.length) s)) ∧
    (s.transportPresent = true → p.length ≤ 65535 →
      ∃ n, n ≤ (frame s.params p).length ∧ (∀ c l, s.sinkAnswers = c :: l → n = min c (frame s.params p).length) ∧
        ∃ t, exec (.frameSend p) s = .next t ∧
          t = ended 0 (.frameCount (frame s.params p) (BitVec.ofNat 17 n))
            { s with
              crc := crc16 p, txbuf := t.txbuf, txPast := t.txPast, txlen := BitVec.ofNat 17 (frame s.params p).length
              txcount := BitVec.ofNat 17 n, txStream := s.txStream ++ (frame s.params p).take n
              sinkAnswers := s.sinkAnswers.tail, txDraws := s.txDraws + 1 } ∧
          t.txcount.toNat = n ∧
          (∀ i, txbufRead t i = if i < (frame s.params p).length then (frame s.params p)[i]? else txbufRead s i))

/-! ## The frame receiver -/

/-- 42_frame_receiver.md R141: `RX_RECEIVE` starts a receive, or ends at once where the transport is absent. -/
def Obligations.RxReceiveStarts : Prop :=
  ∀ (d : Nat) (s : State),
    (encode s.params (.rxReceive d)).head? = some 0x20 ∧
    (s.transportPresent = false → exec (.rxReceive d) s = .next (endedWith 6 .transportUnavailable s)) ∧
    (s.transportPresent = true →
      exec (.rxReceive d) s =
        .next { s with deadline := d, rxst := .seekStart, rxcnt := 0, activity := .receiving .rxReceive })

/-- 42_frame_receiver.md R143, R144: in each of the three states a step first tests the deadline; expired, it ends in
`Timeout` with no byte consumed; with time left and no byte, it changes no state. -/
def Obligations.ExpiryComesFirst : Prop :=
  ∀ (s : State) (r : Receiver), s.activity = .receiving r →
    (s.rxst = .seekStart ∨ s.rxst = .readLength ∨ s.rxst = .accumulate) →
    (s.deadline ≤ s.clock → blockStep s = .next (endedWith 2 .timeout { s with rxst := .idle, rxcnt := 0 })) ∧
    (s.clock < s.deadline → s.rxQueue = [] → blockStep s = .next s)

/-- 42_frame_receiver.md R145: a byte in `SEEK_START`. -/
def Obligations.SeekStartConsumes : Prop :=
  ∀ (s : State) (r : Receiver) (b : Byte) (q : List Byte), s.activity = .receiving r → s.rxst = .seekStart →
    s.clock < s.deadline → s.rxQueue = b :: q →
    blockStep s = .next (
      if b = s.params.markerA then
        { s with rxQueue := q, rxkind := 0, rxneed := 1, rxlencnt := 0, rxlen := 0, rxst := .readLength }
      else if b = s.params.markerB then
        { s with rxQueue := q, rxkind := 1, rxneed := 2, rxlencnt := 0, rxlen := 0, rxst := .readLength }
      else { s with rxQueue := q })

/-- 42_frame_receiver.md R146, R147, R148: a byte in `READ_LENGTH`, with the length's last byte and a length above
`RX_MAX_PAYLOAD`. -/
def Obligations.ReadLengthConsumes : Prop :=
  ∀ (s : State) (r : Receiver) (b : Byte) (q : List Byte), s.activity = .receiving r → s.rxst = .readLength →
    s.clock < s.deadline → s.rxQueue = b :: q →
    ∃ len : BitVec 16, len.toNat = (s.rxlen.toNat * 256 + b.toNat) % 65536 ∧
      (s.rxlencnt + 1 ≠ s.rxneed →
        blockStep s = .next { s with rxQueue := q, rxlen := len, rxlencnt := s.rxlencnt + 1 }) ∧
      (s.rxlencnt + 1 = s.rxneed → len.toNat ≤ s.params.rxMaxPayload →
        blockStep s = .next { s with
          rxQueue := q, rxlen := len, rxlencnt := s.rxlencnt + 1, rxcnt := 0, rxst := .accumulate }) ∧
      (s.rxlencnt + 1 = s.rxneed → s.params.rxMaxPayload < len.toNat →
        blockStep s = .next (endedWith 3 (.malformed len)
          { s with rxQueue := q, rxlen := len, rxlencnt := s.rxlencnt + 1, rxst := .idle }))

/-- 42_frame_receiver.md R149, R150: a byte in `ACCUMULATE`: stored; the stop position compared when it is the last one;
a mismatch discards the candidate and leaves the deadline; a match hands over the payload and the embedded CRC, which end
`RX_RECEIVE` and go on to the validator in a request (`RequestEndsOnItsFirstFrame`), in this same step
(notes/assumptions/12.md, DEDUCED). -/
def Obligations.AccumulateConsumes : Prop :=
  ∀ (s : State) (r : Receiver) (b : Byte) (q : List Byte), s.Inv → s.activity = .receiving r → s.rxst = .accumulate →
    s.clock < s.deadline → s.rxQueue = b :: q →
    ∃ buf : Memory,
      (∀ i, memRead buf i = if i = s.rxcnt.toNat then some b else memRead s.rxbuf i) ∧
      (s.rxcnt.toNat + 1 ≠ s.rxlen.toNat + 3 →
        blockStep s = .next { s with rxQueue := q, rxbuf := buf, rxcnt := s.rxcnt + 1 }) ∧
      (s.rxcnt.toNat + 1 = s.rxlen.toNat + 3 → b ≠ s.params.markerStop →
        blockStep s = .next { s with rxQueue := q, rxbuf := buf, rxcnt := 0, rxst := .seekStart }) ∧
      (s.rxcnt.toNat + 1 = s.rxlen.toNat + 3 → b = s.params.markerStop →
        ∃ (p : List Byte) (hi lo : Byte), p.length = s.rxlen.toNat ∧
          (∀ i, i < p.length → memRead buf i = p[i]?) ∧
          memRead buf p.length = some hi ∧ memRead buf (p.length + 1) = some lo ∧
          blockStep s = endReceive r p (ofBe16 hi lo)
            { s with rxQueue := q, rxbuf := buf, rxcnt := s.rxcnt + 1, rxst := .idle } ∧
          (r = .rxReceive → blockStep s = .next (ended 0 (.payloadCrc p (ofBe16 hi lo))
            { s with rxQueue := q, rxbuf := buf, rxcnt := s.rxcnt + 1, rxst := .idle })))

/-- 42_frame_receiver.md R142, R157: a step of a receive in progress ends the operation, waits on an empty queue, or
consumes one byte. -/
def Obligations.ReceiverStepEndsWaitsOrConsumes : Prop :=
  ∀ (s : State) (r : Receiver), s.Inv → s.activity = .receiving r →
    ∃ t, blockStep s = .next t ∧
      (t.activity = .idle ∨ (s.rxQueue = [] ∧ t = s) ∨
        (t.activity = .receiving r ∧ ∃ b, s.rxQueue = b :: t.rxQueue))

/-- 42_frame_receiver.md R155, R156: from any state with a transport, if the queue holds bytes that the search consumes
exactly (no start marker, or false candidates that all end among them: `SeeksThrough`), then a frame, then anything,
`RX_RECEIVE` returns the frame's payload and CRC after one block step per byte and leaves the rest in the queue;
`RX_VALIDATE` then returns the payload. Between the block steps bytes may arrive and the clock may advance (R142), as long
as it stays below the deadline; the last `k` block steps are taken with no act left, or with an operation that waits at
the port. With no bytes before the frame it is the round trip of R156. -/
def Obligations.ReceiveReturnsTheFirstFrame : Prop :=
  ∀ (s : State) (d k : Nat) (g p h : List Byte) (acts more : List Event), s.params.valid = true →
    s.transportPresent = true → s.schedule = acts ++ more → receiverActs acts → (k = 0 ∨ blockGoesOn more) →
    blockStepsIn acts + k = g.length + (frame s.params p).length → s.clock + advancedIn acts < d →
    p.length ≤ s.params.rxMaxPayload → SeeksThrough s.params g → s.rxQueue = g ++ frame s.params p ++ h →
    ∃ s0 t u : State, exec (.rxReceive d) s = .next s0 ∧ core.run (acts.length + k) s0 = .next t ∧
      t.result = some (.payloadCrc p (crc16 p)) ∧ t.status = 0 ∧ t.activity = .idle ∧ t.rxst = .idle ∧
      t.rxQueue = h ++ arrivedIn acts ∧ t.clock = s.clock + advancedIn acts ∧ t.schedule = more ∧
      t.telem = s.telem ∧ t.tvalid = s.tvalid ∧ t.crc = s.crc ∧ t.txStream = s.txStream ∧
      exec (.rxValidate p (crc16 p)) t = .next u ∧ u.result = some (.payload p) ∧ u.status = 0

/-- 42_frame_receiver.md R157: in an unending run in which the block steps again and again, and under the assumption on
the clock that R157 asks for (`FairClock`, a premise: notes/assumptions/25.md), whatever host, transport and reset do,
every operation in progress ends. -/
def Obligations.ReceiveEndsUnderFairClock : Prop :=
  ∀ (env : Nat → Event) (σ : Nat → State), OpenRun env σ → FairClock env σ → BlockStepsForever env σ →
    ∀ n, (σ n).activity ≠ .idle → ∃ m, n < m ∧ (σ m).activity = .idle

/-- 42_frame_receiver.md R158: if no start marker stands in the queue or arrives before the deadline, `RX_RECEIVE` ends in
`Timeout` with the record as before. Block steps (those that wait on an empty queue among them), arrivals and clock
advances come in any order (R142; the acts: notes/assumptions/2.md), until the clock has reached the deadline and the
block steps once more, as an act or with none left. The bytes that came before the deadline and met a block step are
consumed, the others stay. -/
def Obligations.NoMarkerEndsInTimeout : Prop :=
  ∀ (s : State) (d : Nat) (acts rest more : List Event), s.params.valid = true → s.transportPresent = true →
    s.schedule = acts ++ rest → receiverActs acts → (rest = .blockStep :: more ∨ (rest = [] ∧ more = [])) →
    noMarker s.params (s.rxQueue ++ arrivedBefore d s.clock acts) → d ≤ s.clock + advancedIn acts →
    ∃ s0 t : State, exec (.rxReceive d) s = .next s0 ∧ core.run (acts.length + 1) s0 = .next t ∧
      t.status = 2 ∧ t.result = some (.error .timeout) ∧ t.rxst = .idle ∧ t.rxcnt = 0 ∧ t.activity = .idle ∧
      t.rxQueue = searchLeaves d s.clock s.rxQueue acts ∧ t.clock = s.clock + advancedIn acts ∧ t.schedule = more ∧
      t.telem = s.telem ∧ t.tvalid = s.tvalid ∧ t.crc = s.crc ∧ t.txStream = s.txStream

/-- 42_frame_receiver.md R153: `RX_VALIDATE` in every state; `CRC` is written even on a mismatch. -/
def Obligations.RxValidateCompletes : Prop :=
  ∀ (p : List Byte) (c : BitVec 16) (s : State),
    (encode s.params (.rxValidate p c)).head? = some 0x21 ∧
    (crc16 p = c → exec (.rxValidate p c) s = .next (ended 0 (.payload p) { s with crc := crc16 p })) ∧
    (crc16 p ≠ c →
      exec (.rxValidate p c) s = .next (endedWith 4 (.crcMismatch c (crc16 p)) { s with crc := crc16 p }))

/-! ## The command codec -/

/-- 00_scope.md R15, 43_command_codec.md R180: for a finite value and a positive scale, the scaled integer is the one
nearest the exact product, and of two equally near the one farther from zero (`real149 v` is `real(v) * 2^149`). -/
def Obligations.ScalingRoundsToNearestAwayFromZero : Prop :=
  ∀ (v : Binary32) (k : Nat), 0 < k →
    (2 * |scaledInt v k * 2 ^ 149 - real149 v * k| ≤ 2 ^ 149) ∧
    (2 * |scaledInt v k * 2 ^ 149 - real149 v * k| = 2 ^ 149 → |real149 v * k| < |scaledInt v k * 2 ^ 149|)

/-- 43_command_codec.md R183, R184, R186, R190: the unscaled commands complete in every state; `STATUS` is the only
register written. -/
def Obligations.UnscaledCommandsComplete : Prop :=
  ∀ (s : State) (a : Byte) (rpm : I32),
    (∀ o, (encode s.params (.encGetValues o)).head? = some 0x30 ∧ (encode s.params .encScan).head? = some 0x31 ∧
      (encode s.params (.encStop o)).head? = some 0x33 ∧ (encode s.params (.encSetRpm rpm o)).head? = some 0x37) ∧
    exec (.encGetValues none) s = .next (ended 0 (.payload [s.params.idGetValues]) s) ∧
    exec (.encGetValues (some a)) s =
      .next (ended 0 (.payload [s.params.idForward, a, 1, s.params.idGetValues]) s) ∧
    exec .encScan s = .next (ended 0 (.payload [s.params.idPingCan]) s) ∧
    exec (.encStop none) s = .next (ended 0 (.payload [s.params.idStop]) s) ∧
    exec (.encStop (some a)) s = .next (ended 0 (.payload [s.params.idForward, a, 1, s.params.idStop]) s) ∧
    exec (.encSetRpm rpm none) s = .next (ended 0 (.payload (s.params.idSetRpm :: be32 rpm)) s) ∧
    exec (.encSetRpm rpm (some a)) s =
      .next (ended 0 (.payload ([s.params.idForward, a, 5, s.params.idSetRpm] ++ be32 rpm)) s)

/-- 43_command_codec.md R185, R188, R189, R191: the scaled commands, local and addressed: the field is the rounded
product in 32 bits where the value is finite and the integer fits; otherwise `ValueOutOfRange`. -/
def Obligations.ScaledCommandsComplete : Prop :=
  ∀ (s : State) (v : Binary32) (erpm : I32) (a : Byte) (op : Byte) (i : Option Byte → Instr) (k : Nat)
    (hd tl : List Byte),
    ((op = 0x35 ∧ i = .encSetCurrent v ∧ k = s.params.currentScale ∧ hd = [s.params.idSetCurrent] ∧ tl = []) ∨
     (op = 0x36 ∧ i = .encSetBrake v ∧ k = s.params.brakeScale ∧ hd = [s.params.idSetCurrentBrake] ∧ tl = []) ∨
     (op = 0x38 ∧ i = .encSetDuty v ∧ k = s.params.dutyScale ∧ hd = [s.params.idSetDuty] ∧ tl = []) ∨
     (op = 0x32 ∧ i = .encOpenloop v erpm ∧ k = s.params.openloopCurrentScale ∧ hd = [s.params.idOpenloop] ∧
       tl = be32 erpm)) →
    (∀ o, (encode s.params (i o)).head? = some op) ∧
    ((finite v = false ∨ scaledInt v k < -(2 ^ 31) ∨ 2 ^ 31 - 1 < scaledInt v k) →
      exec (i none) s = .next (endedWith 7 (.valueOutOfRange v) s) ∧
      exec (i (some a)) s = .next (endedWith 7 (.valueOutOfRange v) s)) ∧
    (finite v = true → -(2 ^ 31) ≤ scaledInt v k → scaledInt v k ≤ 2 ^ 31 - 1 →
      ∃ z : BitVec 32, z.toInt = scaledInt v k ∧
        exec (i none) s = .next (ended 0 (.payload (hd ++ be32 z ++ tl)) s) ∧
        exec (i (some a)) s =
          .next (ended 0 (.payload ([s.params.idForward, a, BitVec.ofNat 8 (5 + tl.length)] ++ hd ++ be32 z ++ tl)) s))

/-- 43_command_codec.md R187: the joystick command, local and addressed; the addressed one fails only where the
configured padding makes it longer than an envelope holds. -/
def Obligations.JoystickCompletes : Prop :=
  ∀ (s : State) (x y : I32) (p q : Bool) (a : Byte),
    ∃ inner : List Byte, inner =
        [s.params.idSetChuckData, x.extractLsb' 0 8, y.extractLsb' 0 8, if p then 1 else 0, if q then 1 else 0] ++
          List.replicate s.params.joyPadBytes 0 ∧
      (∀ o, (encode s.params (.encJoystick x y p q o)).head? = some 0x34) ∧
      exec (.encJoystick x y p q none) s = .next (ended 0 (.payload inner) s) ∧
      (5 + s.params.joyPadBytes ≤ 255 →
        exec (.encJoystick x y p q (some a)) s =
          .next (ended 0 (.payload ([s.params.idForward, a, BitVec.ofNat 8 (5 + s.params.joyPadBytes)] ++ inner)) s)) ∧
      (255 < 5 + s.params.joyPadBytes →
        exec (.encJoystick x y p q (some a)) s =
          .next (endedWith 1 (.encodingTooLarge (5 + s.params.joyPadBytes)) s))

/-- 43_command_codec.md R192: `FWD_WRAP` on every address and inner payload. -/
def Obligations.FwdWrapCompletes : Prop :=
  ∀ (s : State) (a : Byte) (inner : List Byte),
    (encode s.params (.fwdWrap a inner)).head? = some 0x3F ∧
    (inner.length ≤ 255 →
      exec (.fwdWrap a inner) s =
        .next (ended 0 (.payload ([s.params.idForward, a, BitVec.ofNat 8 inner.length] ++ inner)) s)) ∧
    (255 < inner.length → exec (.fwdWrap a inner) s = .next (endedWith 1 (.encodingTooLarge inner.length) s))

/-- 43_command_codec.md R193: what an addressed command adds to the local one is the envelope's head and nothing else;
and it succeeds only where the local one does. -/
def Obligations.EnvelopeCarriesTheLocalPayload : Prop :=
  ∀ (s : State) (a : Byte) (i : Option Byte → Instr) (t : State) (w : List Byte),
    (i = .encGetValues ∨ i = .encStop ∨ (∃ r, i = .encSetRpm r) ∨ (∃ v, i = .encSetCurrent v) ∨
      (∃ v, i = .encSetBrake v) ∨ (∃ v, i = .encSetDuty v) ∨ (∃ v e, i = .encOpenloop v e) ∨
      (∃ x y p q, i = .encJoystick x y p q)) →
    exec (i (some a)) s = .next t → t.result = some (.payload w) →
    ∃ (u : State) (p : List Byte), exec (i none) s = .next u ∧ u.result = some (.payload p) ∧ p.length ≤ 255 ∧
      w = [s.params.idForward, a, BitVec.ofNat 8 p.length] ++ p

/-! ## The telemetry decoder -/

/-- 10_state.md R33: the `CONTIGUOUS` layout and its minimum length; 93_implementation_defined.md I5: the minimum length of
`VESC_GAPPED`. Both are legal. -/
def Obligations.LayoutsOfTheSpec : Prop :=
  TelemField.all.map Layout.contiguous.offset = [1, 5, 9, 11, 15, 17, 21, 25, 29] ∧ Layout.contiguous.minLen = 33 ∧
  Layout.contiguous.valid = true ∧ Layout.vescGapped.minLen = 53 ∧ Layout.vescGapped.valid = true

/-- 44_telemetry_decoder.md R223: `DEC_TELEMETRY` in every state and on every payload: the checks in their order, then
all nine fields at the layout's offsets, most significant byte first, with `TVALID`. -/
def Obligations.DecTelemetryCompletes : Prop :=
  ∀ (s : State) (p : List Byte),
    (encode s.params (.decTelemetry p)).head? = some 0x40 ∧
    (p = [] → exec (.decTelemetry p) s = .next (endedWith 5 (.shortPayload 0) s)) ∧
    (∀ b r, p = b :: r → s.params.checkResponseId = true → b ≠ s.params.idGetValues →
      exec (.decTelemetry p) s = .next (endedWith 8 (.unexpectedResponse b) s)) ∧
    (∀ b r, p = b :: r → (s.params.checkResponseId = true → b = s.params.idGetValues) →
      (p.length < s.params.layout.minLen →
        exec (.decTelemetry p) s = .next (endedWith 5 (.shortPayload p.length) s)) ∧
      (s.params.layout.minLen ≤ p.length →
        ∃ m : Telem, exec (.decTelemetry p) s = .next (ended 0 .done { s with telem := some m, tvalid := true }) ∧
          ∀ f : TelemField, ∀ k, k < f.bytes → (telemFieldBytes m f)[k]? = p[s.params.layout.offset f + k]?))

/-- 30_encoding.md R84: a field's stored value is the two's-complement number of its bytes. -/
def Obligations.TelemetryFieldsAreSigned : Prop :=
  ∀ (m : Telem) (f : TelemField),
    (telemFieldBytes m f).length = f.bytes ∧
    telemRaw m f =
      let u : Int := ((telemFieldBytes m f).foldl (fun n b => n * 256 + b.toNat) 0 : Nat)
      if 2 * u < 256 ^ f.bytes then u else u - 256 ^ f.bytes

/-- 44_telemetry_decoder.md R226: `DEC_SCAN_REPLY` in every state and on every payload. -/
def Obligations.DecScanReplyCompletes : Prop :=
  ∀ (s : State),
    (∀ p, (encode s.params (.decScanReply p)).head? = some 0x41) ∧
    exec (.decScanReply []) s = .next (endedWith 5 (.shortPayload 0) s) ∧
    (∀ b r, s.params.checkResponseId = true → b ≠ s.params.idPingCan →
      exec (.decScanReply (b :: r)) s = .next (endedWith 8 (.unexpectedResponse b) s)) ∧
    (∀ b r, (s.params.checkResponseId = true → b = s.params.idPingCan) →
      exec (.decScanReply (b :: r)) s = .next (ended 0 (.addrs r) s))

/-- 44_telemetry_decoder.md R227, 10_state.md R39: `READ_TELEMETRY` in every state: nothing while `TVALID = 0`, otherwise the
whole record. A record that holds no value is never read as one: with `TVALID = 1` and no record, a state no run reaches
(`NoFaultUnderInvariant`), the read is the fault of R39 (its reach: notes/assumptions/8.md, DEDUCED). -/
def Obligations.ReadTelemetryCompletes : Prop :=
  ∀ s : State,
    (encode s.params .readTelemetry).head? = some 0x42 ∧
    (s.tvalid = false → exec .readTelemetry s = .next (ended 0 (.record none) s)) ∧
    (∀ m, s.tvalid = true → s.telem = some m → exec .readTelemetry s = .next (ended 0 (.record (some m)) s)) ∧
    (s.tvalid = true → s.telem = none → exec .readTelemetry s = .fault .telemUnwritten)

/-- 44_telemetry_decoder.md R224, 00_scope.md R15: the number a host is given: a scale-1 field's raw `i32`; a fixed-point
field's binary32 nearest the exact quotient, ties to the even significand (`real149 v` is `real(v) * 2^149`). -/
def Obligations.FloatViewIsCorrectlyRounded : Prop :=
  ∀ (m : Telem) (f : TelemField),
    (f.scale = 1 → ∃ v : BitVec 32, telemNumber m f = .int v ∧ v.toInt = telemRaw m f) ∧
    (f.scale ≠ 1 → ∃ v : BitVec 32, telemNumber m f = .float v ∧ finite v = true ∧
      ∀ w : BitVec 32, finite w = true →
        |real149 v * f.scale - telemRaw m f * 2 ^ 149| ≤ |real149 w * f.scale - telemRaw m f * 2 ^ 149| ∧
        (|real149 v * f.scale - telemRaw m f * 2 ^ 149| = |real149 w * f.scale - telemRaw m f * 2 ^ 149| →
          real149 w ≠ real149 v → v.getLsbD 0 = false))

/-! ## The composite operations -/

/-- 45_host_operations.md R254 to R260: the fire-and-forget commands send exactly the frame of the payload their command
operation returns, return the count, and end with the error it raises where it raises one; the transport check comes
first. The count and `TXBUF` are as in `FrameSendCompletes` (notes/assumptions/5.md, DESIGN CHOICE, 9.md and 23.md,
DEDUCED). -/
def Obligations.SendCommandsComplete : Prop :=
  ∀ (s : State) (op : Byte) (send enc : Instr),
    ((∃ v a, op = 0x52 ∧ send = .sendCurrent v a ∧ enc = .encSetCurrent v a) ∨
     (∃ v a, op = 0x53 ∧ send = .sendBrakeCurrent v a ∧ enc = .encSetBrake v a) ∨
     (∃ r a, op = 0x54 ∧ send = .sendRpm r a ∧ enc = .encSetRpm r a) ∨
     (∃ v a, op = 0x55 ∧ send = .sendDuty v a ∧ enc = .encSetDuty v a) ∨
     (∃ x y p q a, op = 0x56 ∧ send = .sendJoystick x y p q a ∧ enc = .encJoystick x y p q a) ∨
     (∃ v e a, op = 0x57 ∧ send = .runOpenloop v e a ∧ enc = .encOpenloop v e a) ∨
     (∃ a, op = 0x58 ∧ send = .stop a ∧ enc = .encStop a)) →
    (encode s.params send).head? = some op ∧
    (s.transportPresent = false → exec send s = .next (endedWith 6 .transportUnavailable s)) ∧
    (s.transportPresent = true →
      (∃ e st, exec enc s = .next (endedWith st e s) ∧ exec send s = .next (endedWith st e s)) ∨
      (∃ p, exec enc s = .next (ended 0 (.payload p) s) ∧
        (65535 < p.length → exec send s = .next (endedWith 1 (.encodingTooLarge p.length) s)) ∧
        (p.length ≤ 65535 →
          exec send s = .next (ended 0 (.count (BitVec.ofNat 17 (txCountOf (frame s.params p) s))) (afterSend p s)))))

/-- 45_host_operations.md R254 to R260: with the transport present, a command whose values are in range (and, for the
joystick, whose padding fits an envelope) completes: its frame is offered once and the count returned (the count and
`TXBUF`: notes/assumptions/5.md, 9.md, 23.md). -/
def Obligations.SendCommandsInRangeComplete : Prop :=
  ∀ (s : State) (v : Binary32) (e r x y : I32) (bp bq : Bool) (a : Option Byte), s.transportPresent = true →
    (∀ i k, ((i = Instr.sendCurrent v a ∧ k = s.params.currentScale) ∨
        (i = Instr.sendBrakeCurrent v a ∧ k = s.params.brakeScale) ∨
        (i = Instr.sendDuty v a ∧ k = s.params.dutyScale) ∨
        (i = Instr.runOpenloop v e a ∧ k = s.params.openloopCurrentScale)) →
      finite v = true → -(2 ^ 31) ≤ scaledInt v k → scaledInt v k ≤ 2 ^ 31 - 1 →
      ∃ p, exec i s = .next (ended 0 (.count (BitVec.ofNat 17 (txCountOf (frame s.params p) s))) (afterSend p s))) ∧
    (∃ p, exec (.sendRpm r a) s =
      .next (ended 0 (.count (BitVec.ofNat 17 (txCountOf (frame s.params p) s))) (afterSend p s))) ∧
    (∃ p, exec (.stop a) s =
      .next (ended 0 (.count (BitVec.ofNat 17 (txCountOf (frame s.params p) s))) (afterSend p s))) ∧
    (5 + s.params.joyPadBytes ≤ 255 → ∃ p, exec (.sendJoystick x y bp bq a) s =
      .next (ended 0 (.count (BitVec.ofNat 17 (txCountOf (frame s.params p) s))) (afterSend p s)))

/-- 60_exceptions.md R283, 92_eei_decisions.md D31: with the transport absent every operation that touches it ends in
`TransportUnavailable`, whatever its arguments, and writes nothing else. -/
def Obligations.AbsentTransportIsReportedFirst : Prop :=
  ∀ (s : State) (i : Instr), s.transportPresent = false →
    ((∃ p, i = .frameSend p) ∨ (∃ d, i = .rxReceive d) ∨ (∃ a, i = .requestTelemetry a) ∨ i = .scanForControllers ∨
      (∃ v a, i = .sendCurrent v a) ∨ (∃ v a, i = .sendBrakeCurrent v a) ∨ (∃ r a, i = .sendRpm r a) ∨
      (∃ v a, i = .sendDuty v a) ∨ (∃ x y p q a, i = .sendJoystick x y p q a) ∨ (∃ v e a, i = .runOpenloop v e a) ∨
      (∃ a, i = .stop a)) →
    exec i s = .next (endedWith 6 .transportUnavailable s)

/-- 45_host_operations.md R252, R253: a request sends its frame and goes on to its receive. `STATUS` is the 0 of its
`FRAME_SEND` while it is in progress (notes/assumptions/19.md, DEDUCED); the write is a step of its own
(notes/assumptions/11.md, DEDUCED); the count and `TXBUF` are notes/assumptions/5.md, 9.md and 23.md. -/
def Obligations.RequestsSendTheirFrame : Prop :=
  ∀ (s : State) (a : Byte), s.transportPresent = true →
    exec (.requestTelemetry none) s =
      .next { afterSend [s.params.idGetValues] s with activity := .sent .requestTelemetry } ∧
    exec (.requestTelemetry (some a)) s =
      .next { afterSend [s.params.idForward, a, 1, s.params.idGetValues] s with activity := .sent .requestTelemetry } ∧
    exec .scanForControllers s =
      .next { afterSend [s.params.idPingCan] s with activity := .sent .scanForControllers }

/-- 45_host_operations.md R251, 20_memory.md R62: the deadline is the clock, read after the request's write has returned,
plus `RX_TIMEOUT`. -/
def Obligations.DeadlineIsReadAfterTheWrite : Prop :=
  ∀ (s : State) (r : Receiver), s.transportPresent = true → s.activity = .sent r →
    blockStep s = .next { s with
      deadline := s.clock + s.params.rxTimeout, rxst := .seekStart, rxcnt := 0, activity := .receiving r }

/-- 45_host_operations.md R250, R252, R253, 60_exceptions.md R281: how a request ends on the frame it receives: a CRC
mismatch ends it, with no further search; then the decoder's checks; the record is written only on success. -/
def Obligations.RequestEndsOnItsFirstFrame : Prop :=
  ∀ (s : State) (p : List Byte) (c : BitVec 16),
    (crc16 p ≠ c →
      endReceive .requestTelemetry p c s =
        .next (endedWith 4 (.crcMismatch c (crc16 p)) { s with crc := crc16 p }) ∧
      endReceive .scanForControllers p c s =
        .next (endedWith 4 (.crcMismatch c (crc16 p)) { s with crc := crc16 p })) ∧
    (crc16 p = c →
      (∀ m, telemetryOf s.params p = .ok m →
        endReceive .requestTelemetry p c s =
          .next (ended 0 (.telem m) { s with crc := crc16 p, telem := some m, tvalid := true })) ∧
      (∀ e, telemetryOf s.params p = .error e →
        endReceive .requestTelemetry p c s = .next (endedWith (errorCode e) e { s with crc := crc16 p })) ∧
      (∀ l, scanReplyOf s.params p = .ok l →
        endReceive .scanForControllers p c s = .next (ended 0 (.addrs l) { s with crc := crc16 p })) ∧
      (∀ e, scanReplyOf s.params p = .error e →
        endReceive .scanForControllers p c s = .next (endedWith (errorCode e) e { s with crc := crc16 p })))

/-- 45_host_operations.md R252: a whole request. It is presented; acts `pre` of the transport and the clock may come before
the block step that reads the deadline, and `acts` between its steps over the queue, which holds bytes the search consumes
exactly, then the reply, then anything; the clock stays below the deadline. After one block step for the deadline and one
per byte, the record holds the reply's fields, `TVALID` is 1, `CRC` is the reply's, and the rest of the queue is
untouched. -/
def Obligations.TelemetryRequestCompletes : Prop :=
  ∀ (s : State) (a : Option Byte) (k : Nat) (g p h : List Byte) (m : Telem) (pre mid acts more : List Event),
    s.params.valid = true → s.transportPresent = true → s.activity = .idle →
    s.schedule = .present .host (encode s.params (.requestTelemetry a)) :: (pre ++ mid) →
    receiverActs pre → blockStepsIn pre = 0 → receiverActs acts →
    (mid = .blockStep :: (acts ++ more) ∨ (acts = [] ∧ mid = more ∧ blockGoesOn more)) → (k = 0 ∨ blockGoesOn more) →
    blockStepsIn acts + k = g.length + (frame s.params p).length → advancedIn acts < s.params.rxTimeout →
    p.length ≤ s.params.rxMaxPayload → telemetryOf s.params p = .ok m → SeeksThrough s.params g →
    s.rxQueue ++ arrivedIn pre = g ++ frame s.params p ++ h →
    ∃ t : State, core.run (1 + pre.length + 1 + acts.length + k) s = .next t ∧
      t.status = 0 ∧ t.result = some (.telem m) ∧ t.telem = some m ∧ t.tvalid = true ∧ t.crc = crc16 p ∧
      t.rxQueue = h ++ arrivedIn acts ∧ t.activity = .idle ∧ t.rxst = .idle ∧
      t.deadline = s.clock + advancedIn pre + s.params.rxTimeout ∧ t.schedule = more ∧
      ∃ n, t.txStream = s.txStream ++
        (frame s.params (match a with
          | none => [s.params.idGetValues]
          | some x => [s.params.idForward, x, 1, s.params.idGetValues])).take n

/-- 45_host_operations.md R253: a whole scan, under the same conditions; `TELEM` is never written. -/
def Obligations.ScanCompletes : Prop :=
  ∀ (s : State) (k : Nat) (g h l : List Byte) (pre mid acts more : List Event),
    s.params.valid = true → s.transportPresent = true → s.activity = .idle →
    s.schedule = .present .host [0x51] :: (pre ++ mid) → receiverActs pre → blockStepsIn pre = 0 → receiverActs acts →
    (mid = .blockStep :: (acts ++ more) ∨ (acts = [] ∧ mid = more ∧ blockGoesOn more)) → (k = 0 ∨ blockGoesOn more) →
    blockStepsIn acts + k = g.length + (frame s.params (s.params.idPingCan :: l)).length →
    advancedIn acts < s.params.rxTimeout → l.length + 1 ≤ s.params.rxMaxPayload → SeeksThrough s.params g →
    s.rxQueue ++ arrivedIn pre = g ++ frame s.params (s.params.idPingCan :: l) ++ h →
    ∃ t : State, core.run (1 + pre.length + 1 + acts.length + k) s = .next t ∧
      t.status = 0 ∧ t.result = some (.addrs l) ∧ t.telem = s.telem ∧ t.tvalid = s.tvalid ∧
      t.crc = crc16 (s.params.idPingCan :: l) ∧ t.rxQueue = h ++ arrivedIn acts ∧ t.activity = .idle ∧
      t.deadline = s.clock + advancedIn pre + s.params.rxTimeout ∧ t.schedule = more

/-! ## Wire units and errors -/

/-- 30_encoding.md R74, R75, R79 to R82, 20_memory.md R58, notes/assumptions/14.md: each wire unit completes: its frame is
appended to the receive queue, and no register of the block is written. -/
def Obligations.WireUnitsArrive : Prop :=
  ∀ (s : State) (i : Instr) (p : List Byte), p.length ≤ 65535 →
    (i = .frameShort p ∨ i = .frameLong p ∨
      (i = .payloadGetValues ∧ p = [s.params.idGetValues]) ∨
      (∃ d, i = .payloadSetDuty d ∧ p = s.params.idSetDuty :: be32 d) ∨
      (∃ c, i = .payloadSetCurrent c ∧ p = s.params.idSetCurrent :: be32 c) ∨
      (∃ c, i = .payloadSetCurrentBrake c ∧ p = s.params.idSetCurrentBrake :: be32 c) ∨
      (∃ r, i = .payloadSetRpm r ∧ p = s.params.idSetRpm :: be32 r) ∨
      (∃ a inner, i = .payloadForward a inner ∧ p = [s.params.idForward, a, BitVec.ofNat 8 inner.length] ++ inner) ∨
      (∃ x y b c, i = .payloadSetChuckData x y b c ∧
        p = [s.params.idSetChuckData, x, y, if b then 1 else 0, if c then 1 else 0] ++
          List.replicate s.params.joyPadBytes 0) ∨
      (i = .payloadPingCan ∧ p = [s.params.idPingCan]) ∨
      (∃ c e, i = .payloadOpenloop c e ∧ p = s.params.idOpenloop :: (be32 c ++ be32 e)) ∨
      (i = .payloadStop ∧ p = [s.params.idStop]) ∨
      (∃ m, i = .replyTelemetry m ∧ p = telemReply s.params.idGetValues s.params.layout m) ∨
      (∃ l, i = .replyScan l ∧ p = s.params.idPingCan :: l)) →
    exec i s = .next { s with rxQueue := s.rxQueue ++ frame s.params p }

/-- 60_exceptions.md R280: the status code of each error. -/
def Obligations.StatusCodesOfTheErrors : Prop :=
  statusOk = 0 ∧ (∀ n, errorCode (.encodingTooLarge n) = 1) ∧ errorCode .timeout = 2 ∧
  (∀ n, errorCode (.malformed n) = 3) ∧ (∀ x y, errorCode (.crcMismatch x y) = 4) ∧
  (∀ n, errorCode (.shortPayload n) = 5) ∧ errorCode .transportUnavailable = 6 ∧
  (∀ v, errorCode (.valueOutOfRange v) = 7) ∧ (∀ b, errorCode (.unexpectedResponse b) = 8) ∧
  (∀ c, errorCode (.illegalOperation c) = 9)
end

