-- ==== Sys2Proof/Laws/Calls.lean ====
section
/-! SUPPORT. What each shared operation and each call can do, said once. -/
namespace Sys2Proof.Machine

theorem errorCode_le (e : BlockError) : (errorCode e).toNat ≤ 9 := by cases e <;> simp [errorCode]

theorem endOk_eq_ended (r : HostResult) (s : State) : endOk r s = ended 0 r s := rfl

theorem takeError_eq_endedWith (e : BlockError) (s : State) : takeError e s = endedWith (errorCode e) e s := rfl

/-- How a call ends an operation. -/
theorem finish_cases {α : Type} {c : Call α} {r : α → HostResult} {t : State} (h : c.finish r = .next t) :
    (∃ a s', c = .ok a s' ∧ t = endOk (r a) s') ∨ (∃ e s', c = .raised e s' ∧ t = takeError e s') := by
  cases c with
  | ok a s' => exact .inl ⟨a, s', rfl, by simpa [Call.finish] using h.symm⟩
  | raised e s' => exact .inr ⟨e, s', rfl, by simpa [Call.finish] using h.symm⟩

/-- A call never faults and never refuses. -/
theorem finish_isNext {α : Type} (c : Call α) (r : α → HostResult) : ∃ t, c.finish r = .next t := by
  cases c <;> exact ⟨_, rfl⟩

/-- The state after `FRAME_SEND`'s register writes and its sink write. -/
theorem txWrite_loadFrame (p : List Byte) (s : State) :
    { txWrite (frame s.params p) (loadFrame p s) with
      txcount := BitVec.ofNat 17 (txCountOf (frame s.params p) s), status := statusOk } = afterSend p s := rfl

/-- `FRAME_SEND` as a call: the sent frame, or an error and the state as it was. -/
theorem frameSend_cases (p : List Byte) (s : State) :
    (s.transportPresent = true ∧ p.length ≤ maxPayload ∧
      frameSend p s = .ok (frame s.params p, BitVec.ofNat 17 (txCountOf (frame s.params p) s)) (afterSend p s)) ∨
    (s.transportPresent = true ∧ maxPayload < p.length ∧ frameSend p s = .raised (.encodingTooLarge p.length) s) ∨
    (s.transportPresent = false ∧ frameSend p s = .raised .transportUnavailable s) := by
  unfold frameSend needTransport
  cases ht : s.transportPresent
  · exact .inr (.inr ⟨rfl, by simp⟩)
  · by_cases hp : maxPayload < p.length
    · exact .inr (.inl ⟨rfl, hp, by simp [hp]⟩)
    · exact .inl ⟨rfl, Nat.not_lt.mp hp, by simp only [if_true, if_neg hp]; rfl⟩

/-- A command operation ends with its payload or an error, and writes nothing but `STATUS` (43_command_codec.md R182). -/
theorem returnPayload_eq (c : Except BlockError (List Byte)) (s : State) :
    returnPayload c s = .next (match c with
      | .ok p => ended 0 (.payload p) s
      | .error e => endedWith (errorCode e) e s) := by
  cases c <;> rfl

/-- A fire-and-forget command: sent, or an error and no register but `STATUS` written. -/
theorem sendCommand_cases (c : Except BlockError (List Byte)) (s : State) :
    (∃ p, s.transportPresent = true ∧ p.length ≤ maxPayload ∧ c = .ok p ∧
      sendCommand c s =
        .next (ended 0 (.count (BitVec.ofNat 17 (txCountOf (frame s.params p) s))) (afterSend p s))) ∨
    (∃ e, sendCommand c s = .next (endedWith (errorCode e) e s)) := by
  unfold sendCommand needTransport
  cases ht : s.transportPresent
  · exact .inr ⟨.transportUnavailable, rfl⟩
  · cases c with
    | error e => exact .inr ⟨e, rfl⟩
    | ok p =>
      simp only [if_true, callPure, Call.andThen]
      rcases frameSend_cases p s with ⟨-, hp, h⟩ | ⟨-, hp, h⟩ | ⟨hf, h⟩
      · exact .inl ⟨p, trivial, hp, rfl, by rw [h]; rfl⟩
      · exact .inr ⟨_, by rw [h]; rfl⟩
      · exact .inr ⟨_, by rw [h]; rfl⟩

/-- A request: sent and waiting for its deadline, or an error and no register but `STATUS` written. -/
theorem sendRequest_cases (c : Except BlockError (List Byte)) (r : Receiver) (s : State) :
    (∃ p, s.transportPresent = true ∧ p.length ≤ maxPayload ∧ c = .ok p ∧
      sendRequest c r s = .next { afterSend p s with activity := .sent r }) ∨
    (∃ e, sendRequest c r s = .next (endedWith (errorCode e) e s)) := by
  unfold sendRequest needTransport
  cases ht : s.transportPresent
  · exact .inr ⟨.transportUnavailable, rfl⟩
  · cases c with
    | error e => exact .inr ⟨e, rfl⟩
    | ok p =>
      simp only [if_true, callPure, Call.andThen]
      rcases frameSend_cases p s with ⟨-, hp, h⟩ | ⟨-, hp, h⟩ | ⟨hf, h⟩
      · exact .inl ⟨p, trivial, hp, rfl, by rw [h]⟩
      · exact .inr ⟨_, by rw [h]; rfl⟩
      · exact .inr ⟨_, by rw [h]; rfl⟩

/-- How a receive that assembled a frame ends: with a result or an error; `CRC` may be written; the record is written only
with a decoded one, whole. -/
theorem endReceive_cases (r : Receiver) (p : List Byte) (c : BitVec 16) (s : State) :
    (∃ st res k, st.toNat ≤ 9 ∧ endReceive r p c s = .next (ended st res { s with crc := k })) ∨
    (∃ m, r = .requestTelemetry ∧ crc16 p = c ∧ telemetryOf s.params p = .ok m ∧ endReceive r p c s =
      .next (ended 0 (.telem m) { s with crc := crc16 p, telem := some m, tvalid := true })) := by
  cases r with
  | rxReceive => exact .inl ⟨0, .payloadCrc p c, s.crc, by decide, rfl⟩
  | requestTelemetry =>
    by_cases hc : crc16 p = c
    · cases hm : telemetryOf s.params p with
      | ok m =>
        exact .inr ⟨m, rfl, hc, rfl, by
          simp [endReceive, rxValidate, hc, Call.andThen, decTelemetry, hm, callPure, Call.finish, endOk, ended, statusOk]⟩
      | error e =>
        exact .inl ⟨errorCode e, .error e, crc16 p, errorCode_le e, by
          simp [endReceive, rxValidate, hc, Call.andThen, decTelemetry, hm, callPure, Call.finish, takeError, ended]⟩
    · exact .inl ⟨4, .error (.crcMismatch c (crc16 p)), crc16 p, by decide, by
        simp [endReceive, rxValidate, hc, Call.andThen, Call.finish, takeError, ended, errorCode]⟩
  | scanForControllers =>
    by_cases hc : crc16 p = c
    · cases hm : scanReplyOf s.params p with
      | ok m =>
        exact .inl ⟨0, .addrs m, crc16 p, by decide, by
          simp [endReceive, rxValidate, hc, Call.andThen, hm, callPure, Call.finish, endOk, ended, statusOk]⟩
      | error e =>
        exact .inl ⟨errorCode e, .error e, crc16 p, errorCode_le e, by
          simp [endReceive, rxValidate, hc, Call.andThen, hm, callPure, Call.finish, takeError, ended]⟩
    · exact .inl ⟨4, .error (.crcMismatch c (crc16 p)), crc16 p, by decide, by
        simp [endReceive, rxValidate, hc, Call.andThen, Call.finish, takeError, ended, errorCode]⟩

end Sys2Proof.Machine
end

