-- ==== Sys2Proof/Laws/Encoding.lean ====
section
/-! SUPPORT. The round trips of the argument readers and writers, from which the instruction round trips follow. -/
namespace Sys2Proof
open Machine

/-! ## Byte order -/

theorem ofBe16_extract (v : BitVec 16) : ofBe16 (v.extractLsb' 8 8) (v.extractLsb' 0 8) = v := by
  unfold ofBe16
  ext i hi
  simp only [BitVec.getElem_append, BitVec.getElem_extractLsb']
  split
  · simp [BitVec.getLsbD_eq_getElem hi]
  · rw [show 8 + (i - 8) = i by omega, BitVec.getLsbD_eq_getElem hi]

theorem ofBe32_extract (v : BitVec 32) :
    ofBe32 (v.extractLsb' 24 8) (v.extractLsb' 16 8) (v.extractLsb' 8 8) (v.extractLsb' 0 8) = v := by
  unfold ofBe32
  ext i hi
  simp only [BitVec.getElem_append, BitVec.getElem_extractLsb']
  split
  · simp [BitVec.getLsbD_eq_getElem hi]
  · split
    · rw [show 8 + (i - 8) = i by omega, BitVec.getLsbD_eq_getElem hi]
    · split
      · rw [show 16 + (i - 8 - 8) = i by omega, BitVec.getLsbD_eq_getElem hi]
      · rw [show 24 + (i - 8 - 8 - 8) = i by omega, BitVec.getLsbD_eq_getElem hi]

@[simp] theorem be16_length (v : BitVec 16) : (be16 v).length = 2 := rfl
@[simp] theorem be32_length (v : BitVec 32) : (be32 v).length = 4 := rfl

/-! ## Argument readers after argument writers -/

@[simp] theorem readWord16_be16 (v : BitVec 16) (r : List Byte) : readWord16 (be16 v ++ r) = some (v, r) := by
  simp [be16, readWord16, ofBe16_extract]

@[simp] theorem readWord32_be32 (v : BitVec 32) (r : List Byte) : readWord32 (be32 v ++ r) = some (v, r) := by
  simp [be32, readWord32, ofBe32_extract]

@[simp] theorem readByte_cons (b : Byte) (r : List Byte) : readByte (b :: r) = some (b, r) := rfl

@[simp] theorem readBool_boolArg (b : Bool) (r : List Byte) : readBool (boolArg b ++ r) = some (b, r) := by
  cases b <;> simp [boolArg, buttonByte, readBool]

@[simp] theorem readAddr_addrArg (a : Option Byte) (r : List Byte) : readAddr (addrArg a ++ r) = some (a, r) := by
  cases a <;> simp [addrArg, readAddr]

theorem readNat_natDigits (r : List Byte) :
    ∀ (fuel n : Nat), n < 128 ^ (fuel + 1) → readNat (natDigits (fuel + 1) n ++ r) = some (n, r) := by
  intro fuel
  induction fuel with
  | zero =>
    intro n h
    rw [natDigits, if_pos (by simpa using h)]
    have hb : (BitVec.ofNat 8 n).toNat = n := by rw [BitVec.toNat_ofNat, Nat.mod_eq_of_lt (by omega)]
    rw [List.singleton_append, readNat, hb, if_pos (by omega)]
  | succ fuel ih =>
    intro n h
    rw [natDigits]
    split_ifs with hn
    · have hb : (BitVec.ofNat 8 n).toNat = n := by rw [BitVec.toNat_ofNat, Nat.mod_eq_of_lt (by omega)]
      rw [List.singleton_append, readNat, hb, if_pos hn]
    · have hd : n / 128 < 128 ^ (fuel + 1) := by
        rw [Nat.div_lt_iff_lt_mul (by norm_num)]
        rwa [Nat.pow_succ] at h
      have hb : (BitVec.ofNat 8 (128 + n % 128)).toNat = 128 + n % 128 := by
        rw [BitVec.toNat_ofNat, Nat.mod_eq_of_lt (by omega)]
      rw [List.cons_append, readNat, hb, if_neg (by omega), ih _ hd]
      simp only [Option.map_some, Option.some.injEq, Prod.mk.injEq, and_true]
      omega

@[simp] theorem readNat_natArg (n : Nat) (r : List Byte) : readNat (natArg n ++ r) = some (n, r) := by
  apply readNat_natDigits
  calc n < 2 ^ (n.log2 + 1) := Nat.lt_log2_self
    _ ≤ 128 ^ (n.log2 + 1) := Nat.pow_le_pow_left (by norm_num) _

@[simp] theorem readRaw_append (s r : List Byte) : readRaw s.length (s ++ r) = some (s, r) := by
  simp [readRaw]

@[simp] theorem readBytes_bytesArg (s r : List Byte) : readBytes (bytesArg s ++ r) = some (s, r) := by
  simp [readBytes, bytesArg, List.append_assoc]

@[simp] theorem expectBytes_append (w r : List Byte) : expectBytes w (w ++ r) = some r := by
  simp [expectBytes]

end Sys2Proof
end

