-- ==== Sys2Proof/Laws/Environment.lean ====
section
/-! SUPPORT. The terms of Safety.lean about the environment's acts and the search, taken apart. -/
namespace Sys2Proof.Machine

/-- Bytes with no start marker are dropped one by one: the special case 42_frame_receiver.md R155 names first. -/
theorem seeksThrough_of_noMarker {P : Params} {g : List Byte} (h : noMarker P g) : SeeksThrough P g := by
  induction g with
  | nil => exact .done
  | cons b g ih =>
    have hb := h b List.mem_cons_self
    exact .dropped b g hb.1 hb.2 (ih fun c hc => h c (List.mem_cons_of_mem b hc))

theorem receiverActs_nil : receiverActs [] := by simp [receiverActs]

theorem receiverActs_cons {e : Event} {l : List Event} (h : receiverActs (e :: l)) :
    (e = .blockStep ∨ (∃ bs, e = .arrive bs) ∨ ∃ n, e = .advance n) ∧ receiverActs l :=
  ⟨h e List.mem_cons_self, fun d hd => h d (List.mem_cons_of_mem e hd)⟩

theorem blockStepsIn_append (l m : List Event) : blockStepsIn (l ++ m) = blockStepsIn l + blockStepsIn m := by
  induction l with
  | nil => simp [blockStepsIn]
  | cons e l ih => (cases e <;> simp [blockStepsIn, ih]); omega

theorem arrivedIn_append (l m : List Event) : arrivedIn (l ++ m) = arrivedIn l ++ arrivedIn m := by
  induction l with
  | nil => simp [arrivedIn]
  | cons e l ih => cases e <;> simp [arrivedIn, ih]

theorem advancedIn_append (l m : List Event) : advancedIn (l ++ m) = advancedIn l + advancedIn m := by
  induction l with
  | nil => simp [advancedIn]
  | cons e l ih => (cases e <;> simp [advancedIn, ih]); omega

/-- Bytes that arrive before a deadline are among those that arrive. -/
theorem arrivedBefore_subset (d : Nat) (l : List Event) : ∀ c, arrivedBefore d c l ⊆ arrivedIn l := by
  induction l with
  | nil => intro c; simp [arrivedBefore]
  | cons e l ih =>
    intro c
    cases e with
    | arrive bs =>
      simp only [arrivedBefore, arrivedIn]
      split_ifs
      · exact List.append_subset.mpr ⟨List.subset_append_left _ _, List.subset_append_of_subset_right _ (ih c)⟩
      · exact List.subset_append_of_subset_right _ (ih c)
    | advance n => exact ih (c + n)
    | _ => exact ih c

/-- Past the deadline the search takes nothing: what arrives stands behind the queue. -/
theorem searchLeaves_expired {d : Nat} (l : List Event) : ∀ (c : Nat) (q : List Byte), d ≤ c →
    searchLeaves d c q l = q ++ arrivedIn l := by
  induction l with
  | nil => intro c q _; simp [searchLeaves, arrivedIn]
  | cons e l ih =>
    intro c q h
    cases e with
    | blockStep => simp [searchLeaves, arrivedIn, Nat.not_lt.mpr h, ih c q h]
    | arrive bs => simp [searchLeaves, arrivedIn, ih c (q ++ bs) h]
    | advance n => simp [searchLeaves, arrivedIn, ih (c + n) q (by omega)]
    | present _ _ => simp [searchLeaves, arrivedIn, ih c q h]
    | reset => simp [searchLeaves, arrivedIn, ih c q h]

/-- A run in two parts. -/
theorem run_add (m n : Nat) (s t : State) (h : core.run m s = .next t) : core.run (m + n) s = core.run n t := by
  induction m generalizing s with
  | zero => cases h; rw [Nat.zero_add]
  | succ m ih =>
    rw [Nat.add_right_comm]
    simp only [Host.Core.run] at h ⊢
    split at h
    · rename_i u hu
      exact ih u h
    · cases h
    · cases h

end Sys2Proof.Machine
end

