-- ==== Sys2Proof/Laws/Memory.lean ====
section
/-! SUPPORT. The laws of the byte containers: reads after writes, the canonical form, and the bounds of the indices. -/
namespace Sys2Proof.Machine

/-! ## Reads after writes -/

theorem memRead_memWrite_same (m : Memory) (i : Nat) (v : Byte) : memRead (memWrite m i v) i = some v := by
  induction m with
  | nil => simp [memWrite, memRead]
  | cons c m ih =>
    obtain ⟨j, w⟩ := c
    simp only [memWrite]
    split_ifs with h1 h2
    · simp [memRead]
    · simp [memRead]
    · simp [memRead, Ne.symm h2, ih]

theorem memRead_memWrite_other (m : Memory) {i k : Nat} (v : Byte) (h : k ≠ i) :
    memRead (memWrite m i v) k = memRead m k := by
  induction m with
  | nil => simp [memWrite, memRead, Ne.symm h]
  | cons c m ih =>
    obtain ⟨j, w⟩ := c
    simp only [memWrite]
    split_ifs with h1 h2
    · simp [memRead, Ne.symm h]
    · subst h2; simp [memRead, Ne.symm h]
    · simp only [memRead, ih]

theorem memRead_memWrite (m : Memory) (i k : Nat) (v : Byte) :
    memRead (memWrite m i v) k = if k = i then some v else memRead m k := by
  split_ifs with h
  · rw [h, memRead_memWrite_same]
  · exact memRead_memWrite_other m v h

/-- A byte below the range written reads as before. -/
theorem memRead_memWriteAll_below (bs : List Byte) : ∀ (m : Memory) (off k : Nat), k < off →
    memRead (memWriteAll m off bs) k = memRead m k := by
  induction bs with
  | nil => intros; rfl
  | cons b bs ih =>
    intro m off k h
    rw [memWriteAll, ih _ _ _ (by omega), memRead_memWrite_other _ _ (by omega)]

/-- One byte after a range write: the range's byte inside it, the old byte outside. -/
theorem memRead_memWriteAll (bs : List Byte) : ∀ (m : Memory) (off k : Nat),
    memRead (memWriteAll m off bs) k = if off ≤ k ∧ k < off + bs.length then bs[k - off]? else memRead m k := by
  induction bs with
  | nil => intro m off k; simp [memWriteAll]
  | cons b bs ih =>
    intro m off k
    rw [memWriteAll, ih]
    by_cases h : k = off
    · subst h
      simp [memRead_memWrite_same]
    · rw [memRead_memWrite_other _ _ h]
      by_cases h2 : off + 1 ≤ k ∧ k < off + 1 + bs.length
      · rw [if_pos h2, if_pos (by simp only [List.length_cons]; omega)]
        obtain ⟨n, rfl⟩ : ∃ n, k = off + 1 + n := ⟨k - (off + 1), by omega⟩
        simp [show off + 1 + n - off = n + 1 by omega]
      · rw [if_neg h2, if_neg (by simp only [List.length_cons]; omega)]

theorem memByte_of_memRead {m : Memory} {i : Nat} {v : Byte} (h : memRead m i = some v) : memByte m i = v := by
  simp [memByte, h]

/-! ## The canonical form -/

theorem wfFrom_mono {m : Memory} {a b : Nat} (h : a ≤ b) (hm : Memory.wfFrom b m = true) : Memory.wfFrom a m = true := by
  cases m with
  | nil => rfl
  | cons c m =>
    obtain ⟨j, w⟩ := c
    simp only [Memory.wfFrom, Bool.and_eq_true, decide_eq_true_eq] at hm ⊢
    exact ⟨by omega, hm.2⟩

theorem wfFrom_memWrite (m : Memory) : ∀ (n i : Nat) (v : Byte), n ≤ i → Memory.wfFrom n m = true →
    Memory.wfFrom n (memWrite m i v) = true := by
  induction m with
  | nil => intro n i v h _; simp [memWrite, Memory.wfFrom, h]
  | cons c m ih =>
    obtain ⟨j, w⟩ := c
    intro n i v h hm
    simp only [Memory.wfFrom, Bool.and_eq_true, decide_eq_true_eq] at hm
    simp only [memWrite]
    split_ifs with h1 h2
    · simp only [Memory.wfFrom, Bool.and_eq_true, decide_eq_true_eq]
      exact ⟨h, by omega, hm.2⟩
    · subst h2
      simp only [Memory.wfFrom, Bool.and_eq_true, decide_eq_true_eq]
      exact ⟨h, hm.2⟩
    · simp only [Memory.wfFrom, Bool.and_eq_true, decide_eq_true_eq]
      exact ⟨hm.1, ih _ _ _ (by omega) hm.2⟩

/-- A one-byte write keeps the canonical form. -/
theorem memWrite_wf {m : Memory} (i : Nat) (v : Byte) (h : m.wf = true) : (memWrite m i v : Memory).wf = true :=
  wfFrom_memWrite m 0 i v (Nat.zero_le _) h

/-- A range write keeps the canonical form. -/
theorem memWriteAll_wf (bs : List Byte) : ∀ {m : Memory} (off : Nat), m.wf = true →
    (memWriteAll m off bs : Memory).wf = true := by
  induction bs with
  | nil => intro m off h; exact h
  | cons b bs ih => intro m off h; exact ih _ (memWrite_wf off b h)

/-- The memory of the state after reset has the canonical form. -/
theorem reset_memories_wf : State.reset.rxbuf.wf = true ∧ State.reset.txbuf.wf = true := ⟨rfl, rfl⟩

/-! ## Bounds -/

theorem insideBelow_memWrite {m : Memory} {n i : Nat} {v : Byte} (hi : i < n) (h : insideBelow m n) :
    insideBelow (memWrite m i v) n := by
  induction m with
  | nil => intro c hc; simp [memWrite] at hc; subst hc; exact hi
  | cons c m ih =>
    obtain ⟨j, w⟩ := c
    have hj : j < n := h (j, w) (by simp)
    have hm : insideBelow m n := fun c hc => h c (by simp [hc])
    intro c hc
    simp only [memWrite] at hc
    split_ifs at hc with h1 h2
    · rcases List.mem_cons.mp hc with rfl | hc
      · exact hi
      · exact h c hc
    · rcases List.mem_cons.mp hc with rfl | hc
      · exact hi
      · exact hm c hc
    · rcases List.mem_cons.mp hc with rfl | hc
      · exact hj
      · exact ih hm c hc

theorem insideBelow_memWriteAll (bs : List Byte) : ∀ {m : Memory} {n : Nat} (off : Nat), off + bs.length ≤ n →
    insideBelow m n → insideBelow (memWriteAll m off bs) n := by
  induction bs with
  | nil => intro m n off _ h; exact h
  | cons b bs ih =>
    intro m n off hl h
    simp only [List.length_cons] at hl
    exact ih _ (by omega) (insideBelow_memWrite (by omega) h)

theorem writtenBelow_memWrite {m : Memory} {n : Nat} (i : Nat) (v : Byte) (h : writtenBelow m n) :
    writtenBelow (memWrite m i v) n := by
  intro k hk
  rw [memRead_memWrite]
  split_ifs
  · rfl
  · exact h k hk

theorem writtenBelow_memWrite_succ {m : Memory} {n : Nat} (v : Byte) (h : writtenBelow m n) :
    writtenBelow (memWrite m n v) (n + 1) := by
  intro k hk
  rw [memRead_memWrite]
  split_ifs with hkn
  · rfl
  · exact h k (by omega)

theorem writtenBelow_memWriteAll (m : Memory) (bs : List Byte) : writtenBelow (memWriteAll m 0 bs) bs.length := by
  intro k hk
  rw [memRead_memWriteAll]
  simp [hk]

/-! ## TXBUF -/

theorem take_txbufCapacity_length_le (f : List Byte) : (f.take txbufCapacity).length ≤ txbufCapacity := by
  rw [List.length_take]
  omega

/-- What `TXBUF` reads as after a frame is stored: the frame, and past it what it was (41_frame_encoder.md R121). -/
theorem txbufRead_txbufStore {f : List Byte} (hf : f.length ≤ txbufCapacity + 1) (s : State) (i : Nat) :
    txbufRead (txbufStore f s) i = if i < f.length then f[i]? else txbufRead s i := by
  unfold txbufRead txbufStore
  rcases Nat.lt_trichotomy i txbufCapacity with h | rfl | h
  · simp only [memRead_memWriteAll, List.length_take, Nat.zero_le, Nat.zero_add, Nat.sub_zero, true_and, if_true,
      lt_min_iff, h, List.getElem?_take_of_lt h]
  · simp only [Nat.lt_irrefl, if_false, if_true]
    split_ifs with hi
    · simp [List.getElem?_eq_getElem hi]
    · simp [List.getElem?_eq_none (Nat.not_lt.mp hi)]
  · rw [if_neg (by omega), if_neg (by omega), if_neg (by omega), if_neg (by omega), if_neg (by omega)]

/-! ## Range reads -/

/-- A range read of written bytes gives them. -/
theorem memReadAll_eq {m : Memory} {bs : List Byte} {off : Nat} (h : ∀ k, k < bs.length → memRead m (off + k) = bs[k]?) :
    memReadAll m off bs.length = bs := by
  apply List.ext_getElem
  · simp [memReadAll]
  · intro k h1 h2
    have := h k h2
    rw [List.getElem?_eq_getElem h2] at this
    simp [memReadAll, memByte_of_memRead this]

end Sys2Proof.Machine
end

