-- ==== Sys2Proof/Laws/PerInstr.lean ====
section
/-! SUPPORT. Statements for all instructions, one lemma per constructor. -/
namespace Sys2Proof.Laws.FirstByte
open Sys2Proof.Machine

/-- The byte spec/opcode_table.json matches first: the operation code of R71, the code itself of an illegal one, the
start marker or the identifier of a wire row. -/
def tableByte (P : Params) : Instr → Byte
  | .crcInit => 0x01
  | .crcByte _ => 0x02
  | .crcBlock _ => 0x03
  | .crcCheck _ _ => 0x04
  | .frameBuild _ => 0x10
  | .frameSend _ => 0x11
  | .rxReceive _ => 0x20
  | .rxValidate _ _ => 0x21
  | .encGetValues _ => 0x30
  | .encScan => 0x31
  | .encOpenloop _ _ _ => 0x32
  | .encStop _ => 0x33
  | .encJoystick _ _ _ _ _ => 0x34
  | .encSetCurrent _ _ => 0x35
  | .encSetBrake _ _ => 0x36
  | .encSetRpm _ _ => 0x37
  | .encSetDuty _ _ => 0x38
  | .fwdWrap _ _ => 0x3F
  | .decTelemetry _ => 0x40
  | .decScanReply _ => 0x41
  | .readTelemetry => 0x42
  | .requestTelemetry _ => 0x50
  | .scanForControllers => 0x51
  | .sendCurrent _ _ => 0x52
  | .sendBrakeCurrent _ _ => 0x53
  | .sendRpm _ _ => 0x54
  | .sendDuty _ _ => 0x55
  | .sendJoystick _ _ _ _ _ => 0x56
  | .runOpenloop _ _ _ => 0x57
  | .stop _ => 0x58
  | .illegal c => c
  | .frameShort _ => P.markerA
  | .frameLong _ => P.markerB
  | .payloadGetValues => P.idGetValues
  | .payloadSetDuty _ => P.idSetDuty
  | .payloadSetCurrent _ => P.idSetCurrent
  | .payloadSetCurrentBrake _ => P.idSetCurrentBrake
  | .payloadSetRpm _ => P.idSetRpm
  | .payloadForward _ _ => P.idForward
  | .payloadSetChuckData _ _ _ _ => P.idSetChuckData
  | .payloadPingCan => P.idPingCan
  | .payloadOpenloop _ _ => P.idOpenloop
  | .payloadStop => P.idStop
  | .replyTelemetry _ => P.idGetValues
  | .replyScan _ => P.idPingCan

/-- The encoding of a well-formed instruction begins with the byte its row of the opcode table matches. -/
def Statement (i : Instr) : Prop :=
  i.wellFormed = true → ∀ P : Params, (encode P i).head? = some (tableByte P i)

theorem crcInit : Statement .crcInit := fun _ _ => rfl
theorem crcByte (b : Byte) : Statement (.crcByte b) := fun _ _ => rfl
theorem crcBlock (s : List Byte) : Statement (.crcBlock s) := fun _ _ => rfl
theorem crcCheck (s : List Byte) (expected : BitVec 16) : Statement (.crcCheck s expected) := fun _ _ => rfl
theorem frameBuild (payload : List Byte) : Statement (.frameBuild payload) := fun _ _ => rfl
theorem frameSend (payload : List Byte) : Statement (.frameSend payload) := fun _ _ => rfl
theorem rxReceive (deadline : Nat) : Statement (.rxReceive deadline) := fun _ _ => rfl
theorem rxValidate (payload : List Byte) (crc : BitVec 16) : Statement (.rxValidate payload crc) := fun _ _ => rfl
theorem encGetValues (addr : Option Byte) : Statement (.encGetValues addr) := fun _ _ => rfl
theorem encScan : Statement .encScan := fun _ _ => rfl
theorem encOpenloop (current : Binary32) (erpm : I32) (addr : Option Byte) : Statement (.encOpenloop current erpm addr) := fun _ _ => rfl
theorem encStop (addr : Option Byte) : Statement (.encStop addr) := fun _ _ => rfl
theorem encJoystick (x y : I32) (buttonA buttonB : Bool) (addr : Option Byte) : Statement (.encJoystick x y buttonA buttonB addr) := fun _ _ => rfl
theorem encSetCurrent (current : Binary32) (addr : Option Byte) : Statement (.encSetCurrent current addr) := fun _ _ => rfl
theorem encSetBrake (current : Binary32) (addr : Option Byte) : Statement (.encSetBrake current addr) := fun _ _ => rfl
theorem encSetRpm (rpm : I32) (addr : Option Byte) : Statement (.encSetRpm rpm addr) := fun _ _ => rfl
theorem encSetDuty (duty : Binary32) (addr : Option Byte) : Statement (.encSetDuty duty addr) := fun _ _ => rfl
theorem fwdWrap (addr : Byte) (inner : List Byte) : Statement (.fwdWrap addr inner) := fun _ _ => rfl
theorem decTelemetry (payload : List Byte) : Statement (.decTelemetry payload) := fun _ _ => rfl
theorem decScanReply (payload : List Byte) : Statement (.decScanReply payload) := fun _ _ => rfl
theorem readTelemetry : Statement .readTelemetry := fun _ _ => rfl
theorem requestTelemetry (addr : Option Byte) : Statement (.requestTelemetry addr) := fun _ _ => rfl
theorem scanForControllers : Statement .scanForControllers := fun _ _ => rfl
theorem sendCurrent (current : Binary32) (addr : Option Byte) : Statement (.sendCurrent current addr) := fun _ _ => rfl
theorem sendBrakeCurrent (current : Binary32) (addr : Option Byte) : Statement (.sendBrakeCurrent current addr) := fun _ _ => rfl
theorem sendRpm (rpm : I32) (addr : Option Byte) : Statement (.sendRpm rpm addr) := fun _ _ => rfl
theorem sendDuty (duty : Binary32) (addr : Option Byte) : Statement (.sendDuty duty addr) := fun _ _ => rfl
theorem sendJoystick (x y : I32) (buttonA buttonB : Bool) (addr : Option Byte) : Statement (.sendJoystick x y buttonA buttonB addr) := fun _ _ => rfl
theorem runOpenloop (current : Binary32) (erpm : I32) (addr : Option Byte) : Statement (.runOpenloop current erpm addr) := fun _ _ => rfl
theorem stop (addr : Option Byte) : Statement (.stop addr) := fun _ _ => rfl
theorem illegal (code : Byte) : Statement (.illegal code) := fun _ _ => rfl
theorem frameShort (payload : List Byte) : Statement (.frameShort payload) := by
  intro h P
  have h' : payload.length < shortLimit := by simpa [Instr.wellFormed] using h
  simp [encode, frame, frameHeader, h', tableByte]
theorem frameLong (payload : List Byte) : Statement (.frameLong payload) := by
  intro h P
  have h' : shortLimit ≤ payload.length := by
    simp only [Instr.wellFormed, Bool.and_eq_true, decide_eq_true_eq] at h
    exact h.1
  simp [encode, frame, frameHeader, Nat.not_lt.mpr h', tableByte]
theorem payloadGetValues : Statement .payloadGetValues := fun _ _ => rfl
theorem payloadSetDuty (duty : BitVec 32) : Statement (.payloadSetDuty duty) := fun _ _ => rfl
theorem payloadSetCurrent (current : BitVec 32) : Statement (.payloadSetCurrent current) := fun _ _ => rfl
theorem payloadSetCurrentBrake (current : BitVec 32) : Statement (.payloadSetCurrentBrake current) := fun _ _ => rfl
theorem payloadSetRpm (rpm : BitVec 32) : Statement (.payloadSetRpm rpm) := fun _ _ => rfl
theorem payloadForward (addr : Byte) (inner : List Byte) : Statement (.payloadForward addr inner) := fun _ _ => rfl
theorem payloadSetChuckData (x y : Byte) (buttonA buttonB : Bool) : Statement (.payloadSetChuckData x y buttonA buttonB) := fun _ _ => rfl
theorem payloadPingCan : Statement .payloadPingCan := fun _ _ => rfl
theorem payloadOpenloop (current erpm : BitVec 32) : Statement (.payloadOpenloop current erpm) := fun _ _ => rfl
theorem payloadStop : Statement .payloadStop := fun _ _ => rfl
theorem replyTelemetry (fields : Telem) : Statement (.replyTelemetry fields) := by
  intro _ P
  obtain ⟨n, hn⟩ : ∃ n, P.layout.minLen = n + 1 := ⟨P.layout.minLen - 1, by
    have : 4 ≤ P.layout.minLen := by simp [Layout.minLen, TelemField.all, TelemField.bytes]
    omega⟩
  simp [encode, telemetryReplyPayload, telemReply, hn, List.range_succ_eq_map, telemReplyByte, tableByte]
theorem replyScan (addrs : List Byte) : Statement (.replyScan addrs) := fun _ _ => rfl

end Sys2Proof.Laws.FirstByte
end

