-- ==== Sys2Proof/Laws/State.lean ====
section
/-! SUPPORT. What each shared update of State leaves in each field. -/
namespace Sys2Proof.Machine

/-! ## endOk -/

@[simp] theorem endOk_crc (r : HostResult) (s : State) : (endOk r s).crc = s.crc := rfl
@[simp] theorem endOk_status (r : HostResult) (s : State) : (endOk r s).status = statusOk := rfl
@[simp] theorem endOk_rxst (r : HostResult) (s : State) : (endOk r s).rxst = s.rxst := rfl
@[simp] theorem endOk_rxkind (r : HostResult) (s : State) : (endOk r s).rxkind = s.rxkind := rfl
@[simp] theorem endOk_rxneed (r : HostResult) (s : State) : (endOk r s).rxneed = s.rxneed := rfl
@[simp] theorem endOk_rxlencnt (r : HostResult) (s : State) : (endOk r s).rxlencnt = s.rxlencnt := rfl
@[simp] theorem endOk_rxlen (r : HostResult) (s : State) : (endOk r s).rxlen = s.rxlen := rfl
@[simp] theorem endOk_rxcnt (r : HostResult) (s : State) : (endOk r s).rxcnt = s.rxcnt := rfl
@[simp] theorem endOk_rxbuf (r : HostResult) (s : State) : (endOk r s).rxbuf = s.rxbuf := rfl
@[simp] theorem endOk_deadline (r : HostResult) (s : State) : (endOk r s).deadline = s.deadline := rfl
@[simp] theorem endOk_txbuf (r : HostResult) (s : State) : (endOk r s).txbuf = s.txbuf := rfl
@[simp] theorem endOk_txPast (r : HostResult) (s : State) : (endOk r s).txPast = s.txPast := rfl
@[simp] theorem endOk_txlen (r : HostResult) (s : State) : (endOk r s).txlen = s.txlen := rfl
@[simp] theorem endOk_txcount (r : HostResult) (s : State) : (endOk r s).txcount = s.txcount := rfl
@[simp] theorem endOk_tvalid (r : HostResult) (s : State) : (endOk r s).tvalid = s.tvalid := rfl
@[simp] theorem endOk_telem (r : HostResult) (s : State) : (endOk r s).telem = s.telem := rfl
@[simp] theorem endOk_activity (r : HostResult) (s : State) : (endOk r s).activity = .idle := rfl
@[simp] theorem endOk_result (r : HostResult) (s : State) : (endOk r s).result = some r := rfl
@[simp] theorem endOk_rxQueue (r : HostResult) (s : State) : (endOk r s).rxQueue = s.rxQueue := rfl
@[simp] theorem endOk_txStream (r : HostResult) (s : State) : (endOk r s).txStream = s.txStream := rfl
@[simp] theorem endOk_txMark (r : HostResult) (s : State) : (endOk r s).txMark = s.txMark := rfl
@[simp] theorem endOk_clock (r : HostResult) (s : State) : (endOk r s).clock = s.clock := rfl
@[simp] theorem endOk_transportPresent (r : HostResult) (s : State) : (endOk r s).transportPresent = s.transportPresent := rfl
@[simp] theorem endOk_params (r : HostResult) (s : State) : (endOk r s).params = s.params := rfl
@[simp] theorem endOk_sinkAnswers (r : HostResult) (s : State) : (endOk r s).sinkAnswers = s.sinkAnswers := rfl
@[simp] theorem endOk_txDraws (r : HostResult) (s : State) : (endOk r s).txDraws = s.txDraws := rfl
@[simp] theorem endOk_schedule (r : HostResult) (s : State) : (endOk r s).schedule = s.schedule := rfl

/-! ## takeError -/

@[simp] theorem takeError_crc (e : BlockError) (s : State) : (takeError e s).crc = s.crc := rfl
@[simp] theorem takeError_status (e : BlockError) (s : State) : (takeError e s).status = errorCode e := rfl
@[simp] theorem takeError_rxst (e : BlockError) (s : State) : (takeError e s).rxst = s.rxst := rfl
@[simp] theorem takeError_rxkind (e : BlockError) (s : State) : (takeError e s).rxkind = s.rxkind := rfl
@[simp] theorem takeError_rxneed (e : BlockError) (s : State) : (takeError e s).rxneed = s.rxneed := rfl
@[simp] theorem takeError_rxlencnt (e : BlockError) (s : State) : (takeError e s).rxlencnt = s.rxlencnt := rfl
@[simp] theorem takeError_rxlen (e : BlockError) (s : State) : (takeError e s).rxlen = s.rxlen := rfl
@[simp] theorem takeError_rxcnt (e : BlockError) (s : State) : (takeError e s).rxcnt = s.rxcnt := rfl
@[simp] theorem takeError_rxbuf (e : BlockError) (s : State) : (takeError e s).rxbuf = s.rxbuf := rfl
@[simp] theorem takeError_deadline (e : BlockError) (s : State) : (takeError e s).deadline = s.deadline := rfl
@[simp] theorem takeError_txbuf (e : BlockError) (s : State) : (takeError e s).txbuf = s.txbuf := rfl
@[simp] theorem takeError_txPast (e : BlockError) (s : State) : (takeError e s).txPast = s.txPast := rfl
@[simp] theorem takeError_txlen (e : BlockError) (s : State) : (takeError e s).txlen = s.txlen := rfl
@[simp] theorem takeError_txcount (e : BlockError) (s : State) : (takeError e s).txcount = s.txcount := rfl
@[simp] theorem takeError_tvalid (e : BlockError) (s : State) : (takeError e s).tvalid = s.tvalid := rfl
@[simp] theorem takeError_telem (e : BlockError) (s : State) : (takeError e s).telem = s.telem := rfl
@[simp] theorem takeError_activity (e : BlockError) (s : State) : (takeError e s).activity = .idle := rfl
@[simp] theorem takeError_result (e : BlockError) (s : State) : (takeError e s).result = some (.error e) := rfl
@[simp] theorem takeError_rxQueue (e : BlockError) (s : State) : (takeError e s).rxQueue = s.rxQueue := rfl
@[simp] theorem takeError_txStream (e : BlockError) (s : State) : (takeError e s).txStream = s.txStream := rfl
@[simp] theorem takeError_txMark (e : BlockError) (s : State) : (takeError e s).txMark = s.txMark := rfl
@[simp] theorem takeError_clock (e : BlockError) (s : State) : (takeError e s).clock = s.clock := rfl
@[simp] theorem takeError_transportPresent (e : BlockError) (s : State) : (takeError e s).transportPresent = s.transportPresent := rfl
@[simp] theorem takeError_params (e : BlockError) (s : State) : (takeError e s).params = s.params := rfl
@[simp] theorem takeError_sinkAnswers (e : BlockError) (s : State) : (takeError e s).sinkAnswers = s.sinkAnswers := rfl
@[simp] theorem takeError_txDraws (e : BlockError) (s : State) : (takeError e s).txDraws = s.txDraws := rfl
@[simp] theorem takeError_schedule (e : BlockError) (s : State) : (takeError e s).schedule = s.schedule := rfl

/-! ## txWrite -/

@[simp] theorem txWrite_crc (f : List Byte) (s : State) : (txWrite f s).crc = s.crc := rfl
@[simp] theorem txWrite_status (f : List Byte) (s : State) : (txWrite f s).status = s.status := rfl
@[simp] theorem txWrite_rxst (f : List Byte) (s : State) : (txWrite f s).rxst = s.rxst := rfl
@[simp] theorem txWrite_rxkind (f : List Byte) (s : State) : (txWrite f s).rxkind = s.rxkind := rfl
@[simp] theorem txWrite_rxneed (f : List Byte) (s : State) : (txWrite f s).rxneed = s.rxneed := rfl
@[simp] theorem txWrite_rxlencnt (f : List Byte) (s : State) : (txWrite f s).rxlencnt = s.rxlencnt := rfl
@[simp] theorem txWrite_rxlen (f : List Byte) (s : State) : (txWrite f s).rxlen = s.rxlen := rfl
@[simp] theorem txWrite_rxcnt (f : List Byte) (s : State) : (txWrite f s).rxcnt = s.rxcnt := rfl
@[simp] theorem txWrite_rxbuf (f : List Byte) (s : State) : (txWrite f s).rxbuf = s.rxbuf := rfl
@[simp] theorem txWrite_deadline (f : List Byte) (s : State) : (txWrite f s).deadline = s.deadline := rfl
@[simp] theorem txWrite_txbuf (f : List Byte) (s : State) : (txWrite f s).txbuf = s.txbuf := rfl
@[simp] theorem txWrite_txPast (f : List Byte) (s : State) : (txWrite f s).txPast = s.txPast := rfl
@[simp] theorem txWrite_txlen (f : List Byte) (s : State) : (txWrite f s).txlen = s.txlen := rfl
@[simp] theorem txWrite_txcount (f : List Byte) (s : State) : (txWrite f s).txcount = s.txcount := rfl
@[simp] theorem txWrite_tvalid (f : List Byte) (s : State) : (txWrite f s).tvalid = s.tvalid := rfl
@[simp] theorem txWrite_telem (f : List Byte) (s : State) : (txWrite f s).telem = s.telem := rfl
@[simp] theorem txWrite_activity (f : List Byte) (s : State) : (txWrite f s).activity = s.activity := rfl
@[simp] theorem txWrite_result (f : List Byte) (s : State) : (txWrite f s).result = s.result := rfl
@[simp] theorem txWrite_rxQueue (f : List Byte) (s : State) : (txWrite f s).rxQueue = s.rxQueue := rfl
@[simp] theorem txWrite_txStream (f : List Byte) (s : State) : (txWrite f s).txStream = s.txStream ++ f.take (txCountOf f s) := rfl
@[simp] theorem txWrite_txMark (f : List Byte) (s : State) : (txWrite f s).txMark = s.txMark := rfl
@[simp] theorem txWrite_clock (f : List Byte) (s : State) : (txWrite f s).clock = s.clock := rfl
@[simp] theorem txWrite_transportPresent (f : List Byte) (s : State) : (txWrite f s).transportPresent = s.transportPresent := rfl
@[simp] theorem txWrite_params (f : List Byte) (s : State) : (txWrite f s).params = s.params := rfl
@[simp] theorem txWrite_sinkAnswers (f : List Byte) (s : State) : (txWrite f s).sinkAnswers = s.sinkAnswers.tail := rfl
@[simp] theorem txWrite_txDraws (f : List Byte) (s : State) : (txWrite f s).txDraws = s.txDraws + 1 := rfl
@[simp] theorem txWrite_schedule (f : List Byte) (s : State) : (txWrite f s).schedule = s.schedule := rfl

/-! ## arrive -/

@[simp] theorem arrive_crc (bs : List Byte) (s : State) : (arrive bs s).crc = s.crc := rfl
@[simp] theorem arrive_status (bs : List Byte) (s : State) : (arrive bs s).status = s.status := rfl
@[simp] theorem arrive_rxst (bs : List Byte) (s : State) : (arrive bs s).rxst = s.rxst := rfl
@[simp] theorem arrive_rxkind (bs : List Byte) (s : State) : (arrive bs s).rxkind = s.rxkind := rfl
@[simp] theorem arrive_rxneed (bs : List Byte) (s : State) : (arrive bs s).rxneed = s.rxneed := rfl
@[simp] theorem arrive_rxlencnt (bs : List Byte) (s : State) : (arrive bs s).rxlencnt = s.rxlencnt := rfl
@[simp] theorem arrive_rxlen (bs : List Byte) (s : State) : (arrive bs s).rxlen = s.rxlen := rfl
@[simp] theorem arrive_rxcnt (bs : List Byte) (s : State) : (arrive bs s).rxcnt = s.rxcnt := rfl
@[simp] theorem arrive_rxbuf (bs : List Byte) (s : State) : (arrive bs s).rxbuf = s.rxbuf := rfl
@[simp] theorem arrive_deadline (bs : List Byte) (s : State) : (arrive bs s).deadline = s.deadline := rfl
@[simp] theorem arrive_txbuf (bs : List Byte) (s : State) : (arrive bs s).txbuf = s.txbuf := rfl
@[simp] theorem arrive_txPast (bs : List Byte) (s : State) : (arrive bs s).txPast = s.txPast := rfl
@[simp] theorem arrive_txlen (bs : List Byte) (s : State) : (arrive bs s).txlen = s.txlen := rfl
@[simp] theorem arrive_txcount (bs : List Byte) (s : State) : (arrive bs s).txcount = s.txcount := rfl
@[simp] theorem arrive_tvalid (bs : List Byte) (s : State) : (arrive bs s).tvalid = s.tvalid := rfl
@[simp] theorem arrive_telem (bs : List Byte) (s : State) : (arrive bs s).telem = s.telem := rfl
@[simp] theorem arrive_activity (bs : List Byte) (s : State) : (arrive bs s).activity = s.activity := rfl
@[simp] theorem arrive_result (bs : List Byte) (s : State) : (arrive bs s).result = s.result := rfl
@[simp] theorem arrive_rxQueue (bs : List Byte) (s : State) : (arrive bs s).rxQueue = s.rxQueue ++ bs := rfl
@[simp] theorem arrive_txStream (bs : List Byte) (s : State) : (arrive bs s).txStream = s.txStream := rfl
@[simp] theorem arrive_txMark (bs : List Byte) (s : State) : (arrive bs s).txMark = s.txMark := rfl
@[simp] theorem arrive_clock (bs : List Byte) (s : State) : (arrive bs s).clock = s.clock := rfl
@[simp] theorem arrive_transportPresent (bs : List Byte) (s : State) : (arrive bs s).transportPresent = s.transportPresent := rfl
@[simp] theorem arrive_params (bs : List Byte) (s : State) : (arrive bs s).params = s.params := rfl
@[simp] theorem arrive_sinkAnswers (bs : List Byte) (s : State) : (arrive bs s).sinkAnswers = s.sinkAnswers := rfl
@[simp] theorem arrive_txDraws (bs : List Byte) (s : State) : (arrive bs s).txDraws = s.txDraws := rfl
@[simp] theorem arrive_schedule (bs : List Byte) (s : State) : (arrive bs s).schedule = s.schedule := rfl

/-! ## advanceClock -/

@[simp] theorem advanceClock_crc (n : Nat) (s : State) : (advanceClock n s).crc = s.crc := rfl
@[simp] theorem advanceClock_status (n : Nat) (s : State) : (advanceClock n s).status = s.status := rfl
@[simp] theorem advanceClock_rxst (n : Nat) (s : State) : (advanceClock n s).rxst = s.rxst := rfl
@[simp] theorem advanceClock_rxkind (n : Nat) (s : State) : (advanceClock n s).rxkind = s.rxkind := rfl
@[simp] theorem advanceClock_rxneed (n : Nat) (s : State) : (advanceClock n s).rxneed = s.rxneed := rfl
@[simp] theorem advanceClock_rxlencnt (n : Nat) (s : State) : (advanceClock n s).rxlencnt = s.rxlencnt := rfl
@[simp] theorem advanceClock_rxlen (n : Nat) (s : State) : (advanceClock n s).rxlen = s.rxlen := rfl
@[simp] theorem advanceClock_rxcnt (n : Nat) (s : State) : (advanceClock n s).rxcnt = s.rxcnt := rfl
@[simp] theorem advanceClock_rxbuf (n : Nat) (s : State) : (advanceClock n s).rxbuf = s.rxbuf := rfl
@[simp] theorem advanceClock_deadline (n : Nat) (s : State) : (advanceClock n s).deadline = s.deadline := rfl
@[simp] theorem advanceClock_txbuf (n : Nat) (s : State) : (advanceClock n s).txbuf = s.txbuf := rfl
@[simp] theorem advanceClock_txPast (n : Nat) (s : State) : (advanceClock n s).txPast = s.txPast := rfl
@[simp] theorem advanceClock_txlen (n : Nat) (s : State) : (advanceClock n s).txlen = s.txlen := rfl
@[simp] theorem advanceClock_txcount (n : Nat) (s : State) : (advanceClock n s).txcount = s.txcount := rfl
@[simp] theorem advanceClock_tvalid (n : Nat) (s : State) : (advanceClock n s).tvalid = s.tvalid := rfl
@[simp] theorem advanceClock_telem (n : Nat) (s : State) : (advanceClock n s).telem = s.telem := rfl
@[simp] theorem advanceClock_activity (n : Nat) (s : State) : (advanceClock n s).activity = s.activity := rfl
@[simp] theorem advanceClock_result (n : Nat) (s : State) : (advanceClock n s).result = s.result := rfl
@[simp] theorem advanceClock_rxQueue (n : Nat) (s : State) : (advanceClock n s).rxQueue = s.rxQueue := rfl
@[simp] theorem advanceClock_txStream (n : Nat) (s : State) : (advanceClock n s).txStream = s.txStream := rfl
@[simp] theorem advanceClock_txMark (n : Nat) (s : State) : (advanceClock n s).txMark = s.txMark := rfl
@[simp] theorem advanceClock_clock (n : Nat) (s : State) : (advanceClock n s).clock = s.clock + n := rfl
@[simp] theorem advanceClock_transportPresent (n : Nat) (s : State) : (advanceClock n s).transportPresent = s.transportPresent := rfl
@[simp] theorem advanceClock_params (n : Nat) (s : State) : (advanceClock n s).params = s.params := rfl
@[simp] theorem advanceClock_sinkAnswers (n : Nat) (s : State) : (advanceClock n s).sinkAnswers = s.sinkAnswers := rfl
@[simp] theorem advanceClock_txDraws (n : Nat) (s : State) : (advanceClock n s).txDraws = s.txDraws := rfl
@[simp] theorem advanceClock_schedule (n : Nat) (s : State) : (advanceClock n s).schedule = s.schedule := rfl

/-! ## txbufStore -/

@[simp] theorem txbufStore_crc (f : List Byte) (s : State) : (txbufStore f s).crc = s.crc := rfl
@[simp] theorem txbufStore_status (f : List Byte) (s : State) : (txbufStore f s).status = s.status := rfl
@[simp] theorem txbufStore_rxst (f : List Byte) (s : State) : (txbufStore f s).rxst = s.rxst := rfl
@[simp] theorem txbufStore_rxkind (f : List Byte) (s : State) : (txbufStore f s).rxkind = s.rxkind := rfl
@[simp] theorem txbufStore_rxneed (f : List Byte) (s : State) : (txbufStore f s).rxneed = s.rxneed := rfl
@[simp] theorem txbufStore_rxlencnt (f : List Byte) (s : State) : (txbufStore f s).rxlencnt = s.rxlencnt := rfl
@[simp] theorem txbufStore_rxlen (f : List Byte) (s : State) : (txbufStore f s).rxlen = s.rxlen := rfl
@[simp] theorem txbufStore_rxcnt (f : List Byte) (s : State) : (txbufStore f s).rxcnt = s.rxcnt := rfl
@[simp] theorem txbufStore_rxbuf (f : List Byte) (s : State) : (txbufStore f s).rxbuf = s.rxbuf := rfl
@[simp] theorem txbufStore_deadline (f : List Byte) (s : State) : (txbufStore f s).deadline = s.deadline := rfl
@[simp] theorem txbufStore_txbuf (f : List Byte) (s : State) : (txbufStore f s).txbuf =
    memWriteAll s.txbuf 0 (f.take txbufCapacity) := rfl
@[simp] theorem txbufStore_txPast (f : List Byte) (s : State) : (txbufStore f s).txPast = f[txbufCapacity]?.or s.txPast := rfl
@[simp] theorem txbufStore_txlen (f : List Byte) (s : State) : (txbufStore f s).txlen = s.txlen := rfl
@[simp] theorem txbufStore_txcount (f : List Byte) (s : State) : (txbufStore f s).txcount = s.txcount := rfl
@[simp] theorem txbufStore_tvalid (f : List Byte) (s : State) : (txbufStore f s).tvalid = s.tvalid := rfl
@[simp] theorem txbufStore_telem (f : List Byte) (s : State) : (txbufStore f s).telem = s.telem := rfl
@[simp] theorem txbufStore_activity (f : List Byte) (s : State) : (txbufStore f s).activity = s.activity := rfl
@[simp] theorem txbufStore_result (f : List Byte) (s : State) : (txbufStore f s).result = s.result := rfl
@[simp] theorem txbufStore_rxQueue (f : List Byte) (s : State) : (txbufStore f s).rxQueue = s.rxQueue := rfl
@[simp] theorem txbufStore_txStream (f : List Byte) (s : State) : (txbufStore f s).txStream = s.txStream := rfl
@[simp] theorem txbufStore_txMark (f : List Byte) (s : State) : (txbufStore f s).txMark = s.txMark := rfl
@[simp] theorem txbufStore_clock (f : List Byte) (s : State) : (txbufStore f s).clock = s.clock := rfl
@[simp] theorem txbufStore_transportPresent (f : List Byte) (s : State) : (txbufStore f s).transportPresent = s.transportPresent := rfl
@[simp] theorem txbufStore_params (f : List Byte) (s : State) : (txbufStore f s).params = s.params := rfl
@[simp] theorem txbufStore_sinkAnswers (f : List Byte) (s : State) : (txbufStore f s).sinkAnswers = s.sinkAnswers := rfl
@[simp] theorem txbufStore_txDraws (f : List Byte) (s : State) : (txbufStore f s).txDraws = s.txDraws := rfl
@[simp] theorem txbufStore_schedule (f : List Byte) (s : State) : (txbufStore f s).schedule = s.schedule := rfl

/-! ## loadFrame -/

@[simp] theorem loadFrame_crc (p : List Byte) (s : State) : (loadFrame p s).crc = crc16 p := rfl
@[simp] theorem loadFrame_status (p : List Byte) (s : State) : (loadFrame p s).status = s.status := rfl
@[simp] theorem loadFrame_rxst (p : List Byte) (s : State) : (loadFrame p s).rxst = s.rxst := rfl
@[simp] theorem loadFrame_rxkind (p : List Byte) (s : State) : (loadFrame p s).rxkind = s.rxkind := rfl
@[simp] theorem loadFrame_rxneed (p : List Byte) (s : State) : (loadFrame p s).rxneed = s.rxneed := rfl
@[simp] theorem loadFrame_rxlencnt (p : List Byte) (s : State) : (loadFrame p s).rxlencnt = s.rxlencnt := rfl
@[simp] theorem loadFrame_rxlen (p : List Byte) (s : State) : (loadFrame p s).rxlen = s.rxlen := rfl
@[simp] theorem loadFrame_rxcnt (p : List Byte) (s : State) : (loadFrame p s).rxcnt = s.rxcnt := rfl
@[simp] theorem loadFrame_rxbuf (p : List Byte) (s : State) : (loadFrame p s).rxbuf = s.rxbuf := rfl
@[simp] theorem loadFrame_deadline (p : List Byte) (s : State) : (loadFrame p s).deadline = s.deadline := rfl
@[simp] theorem loadFrame_txbuf (p : List Byte) (s : State) : (loadFrame p s).txbuf =
    memWriteAll s.txbuf 0 ((frame s.params p).take txbufCapacity) := rfl
@[simp] theorem loadFrame_txPast (p : List Byte) (s : State) : (loadFrame p s).txPast =
    (frame s.params p)[txbufCapacity]?.or s.txPast := rfl
@[simp] theorem loadFrame_txlen (p : List Byte) (s : State) : (loadFrame p s).txlen = BitVec.ofNat 17 (frame s.params p).length := rfl
@[simp] theorem loadFrame_txcount (p : List Byte) (s : State) : (loadFrame p s).txcount = s.txcount := rfl
@[simp] theorem loadFrame_tvalid (p : List Byte) (s : State) : (loadFrame p s).tvalid = s.tvalid := rfl
@[simp] theorem loadFrame_telem (p : List Byte) (s : State) : (loadFrame p s).telem = s.telem := rfl
@[simp] theorem loadFrame_activity (p : List Byte) (s : State) : (loadFrame p s).activity = s.activity := rfl
@[simp] theorem loadFrame_result (p : List Byte) (s : State) : (loadFrame p s).result = s.result := rfl
@[simp] theorem loadFrame_rxQueue (p : List Byte) (s : State) : (loadFrame p s).rxQueue = s.rxQueue := rfl
@[simp] theorem loadFrame_txStream (p : List Byte) (s : State) : (loadFrame p s).txStream = s.txStream := rfl
@[simp] theorem loadFrame_txMark (p : List Byte) (s : State) : (loadFrame p s).txMark = s.txMark := rfl
@[simp] theorem loadFrame_clock (p : List Byte) (s : State) : (loadFrame p s).clock = s.clock := rfl
@[simp] theorem loadFrame_transportPresent (p : List Byte) (s : State) : (loadFrame p s).transportPresent = s.transportPresent := rfl
@[simp] theorem loadFrame_params (p : List Byte) (s : State) : (loadFrame p s).params = s.params := rfl
@[simp] theorem loadFrame_sinkAnswers (p : List Byte) (s : State) : (loadFrame p s).sinkAnswers = s.sinkAnswers := rfl
@[simp] theorem loadFrame_txDraws (p : List Byte) (s : State) : (loadFrame p s).txDraws = s.txDraws := rfl
@[simp] theorem loadFrame_schedule (p : List Byte) (s : State) : (loadFrame p s).schedule = s.schedule := rfl

/-! ## applyReset -/

@[simp] theorem applyReset_crc (s : State) : (applyReset s).crc = crcInit := rfl
@[simp] theorem applyReset_status (s : State) : (applyReset s).status = 0 := rfl
@[simp] theorem applyReset_rxst (s : State) : (applyReset s).rxst = .idle := rfl
@[simp] theorem applyReset_rxkind (s : State) : (applyReset s).rxkind = 0 := rfl
@[simp] theorem applyReset_rxneed (s : State) : (applyReset s).rxneed = 0 := rfl
@[simp] theorem applyReset_rxlencnt (s : State) : (applyReset s).rxlencnt = 0 := rfl
@[simp] theorem applyReset_rxlen (s : State) : (applyReset s).rxlen = 0 := rfl
@[simp] theorem applyReset_rxcnt (s : State) : (applyReset s).rxcnt = 0 := rfl
@[simp] theorem applyReset_rxbuf (s : State) : (applyReset s).rxbuf = [] := rfl
@[simp] theorem applyReset_deadline (s : State) : (applyReset s).deadline = 0 := rfl
@[simp] theorem applyReset_txbuf (s : State) : (applyReset s).txbuf = [] := rfl
@[simp] theorem applyReset_txPast (s : State) : (applyReset s).txPast = none := rfl
@[simp] theorem applyReset_txlen (s : State) : (applyReset s).txlen = 0 := rfl
@[simp] theorem applyReset_txcount (s : State) : (applyReset s).txcount = 0 := rfl
@[simp] theorem applyReset_tvalid (s : State) : (applyReset s).tvalid = false := rfl
@[simp] theorem applyReset_telem (s : State) : (applyReset s).telem = none := rfl
@[simp] theorem applyReset_activity (s : State) : (applyReset s).activity = .idle := rfl
@[simp] theorem applyReset_result (s : State) : (applyReset s).result = none := rfl
@[simp] theorem applyReset_rxQueue (s : State) : (applyReset s).rxQueue = s.rxQueue := rfl
@[simp] theorem applyReset_txStream (s : State) : (applyReset s).txStream = s.txStream := rfl
@[simp] theorem applyReset_txMark (s : State) : (applyReset s).txMark = s.txStream.length := rfl
@[simp] theorem applyReset_clock (s : State) : (applyReset s).clock = s.clock := rfl
@[simp] theorem applyReset_transportPresent (s : State) : (applyReset s).transportPresent = s.transportPresent := rfl
@[simp] theorem applyReset_params (s : State) : (applyReset s).params = s.params := rfl
@[simp] theorem applyReset_sinkAnswers (s : State) : (applyReset s).sinkAnswers = s.sinkAnswers := rfl
@[simp] theorem applyReset_txDraws (s : State) : (applyReset s).txDraws = s.txDraws := rfl
@[simp] theorem applyReset_schedule (s : State) : (applyReset s).schedule = s.schedule := rfl

/-! ## sentSinceReset -/

@[simp] theorem sentSinceReset_endOk (r : HostResult) (s : State) : sentSinceReset (endOk r s) = sentSinceReset s := rfl
@[simp] theorem sentSinceReset_takeError (e : BlockError) (s : State) : sentSinceReset (takeError e s) = sentSinceReset s := rfl
@[simp] theorem sentSinceReset_arrive (bs : List Byte) (s : State) : sentSinceReset (arrive bs s) = sentSinceReset s := rfl
@[simp] theorem sentSinceReset_advanceClock (n : Nat) (s : State) : sentSinceReset (advanceClock n s) = sentSinceReset s := rfl
@[simp] theorem sentSinceReset_loadFrame (p : List Byte) (s : State) : sentSinceReset (loadFrame p s) = sentSinceReset s := rfl
@[simp] theorem sentSinceReset_applyReset (s : State) : sentSinceReset (applyReset s) = [] := by
  simp [sentSinceReset]
theorem sentSinceReset_txWrite (f : List Byte) {s : State} (h : s.txMark ≤ s.txStream.length) :
    sentSinceReset (txWrite f s) = sentSinceReset s ++ f.take (txCountOf f s) := by
  simp [sentSinceReset, List.drop_append_of_le_length h]

end Sys2Proof.Machine
end

