-- ==== Sys2Proof/Laws/Steps.lean ====
section
/-! SUPPORT. Everything an instruction, a block step and a step can do: the inversion lemmas. -/
namespace Sys2Proof.Machine

/-- Everything an instruction's own step can do to the state. -/
inductive ExecEffect (i : Instr) (s : State) : State → Prop where
  /-- It ends with a result or an error, and writes `CRC` at most. -/
  | crcOnly (st : BitVec 8) (r : HostResult) (k : BitVec 16) (h : st.toNat ≤ 9) : ExecEffect i s (ended st r { s with crc := k })
  /-- `FRAME_BUILD` loads a frame. -/
  | built (p : List Byte) (r : HostResult) (hp : p.length ≤ maxPayload) : ExecEffect i s (ended 0 r (loadFrame p s))
  /-- A frame is sent and the operation ends. -/
  | sent (p : List Byte) (r : HostResult) (ht : s.transportPresent = true) (hp : p.length ≤ maxPayload) :
      ExecEffect i s (ended 0 r (afterSend p s))
  /-- A request's frame is sent and the operation goes on. -/
  | requested (p : List Byte) (k : Receiver) (ht : s.transportPresent = true) (hp : p.length ≤ maxPayload) :
      ExecEffect i s { afterSend p s with activity := .sent k }
  /-- A receive starts. -/
  | started (d : Nat) (ht : s.transportPresent = true) :
      ExecEffect i s { s with deadline := d, rxst := .seekStart, rxcnt := 0, activity := .receiving .rxReceive }
  /-- The record is written whole. -/
  | decoded (p : List Byte) (m : Telem) (hi : i = .decTelemetry p) (hm : telemetryOf s.params p = .ok m) :
      ExecEffect i s (ended 0 .done { s with telem := some m, tvalid := true })
  /-- Bytes arrive at the receive source. -/
  | arrived (bs : List Byte) : ExecEffect i s (arrive bs s)

theorem ExecEffect.error {i : Instr} (s : State) (e : BlockError) : ExecEffect i s (endedWith (errorCode e) e s) :=
  .crcOnly (errorCode e) (.error e) s.crc (errorCode_le e)

theorem returnPayload_effect {i : Instr} {c : Except BlockError (List Byte)} {s t : State} (h : returnPayload c s = .next t) :
    ExecEffect i s t := by
  rw [returnPayload_eq] at h
  cases h
  cases c with
  | ok p => exact .crcOnly 0 (.payload p) s.crc (by decide)
  | error e => exact .error s e

theorem sendCommand_effect {i : Instr} {c : Except BlockError (List Byte)} {s t : State} (h : sendCommand c s = .next t) :
    ExecEffect i s t := by
  rcases sendCommand_cases c s with ⟨p, ht, hp, -, h'⟩ | ⟨e, h'⟩ <;> rw [h'] at h <;> cases h
  · exact .sent p _ ht hp
  · exact .error s e

theorem sendRequest_effect {i : Instr} {c : Except BlockError (List Byte)} {r : Receiver} {s t : State}
    (h : sendRequest c r s = .next t) : ExecEffect i s t := by
  rcases sendRequest_cases c r s with ⟨p, ht, hp, -, h'⟩ | ⟨e, h'⟩ <;> rw [h'] at h <;> cases h
  · exact .requested p r ht hp
  · exact .error s e

theorem arriveFrameOf_effect {i : Instr} {p : List Byte} {s t : State} (h : arriveFrameOf p s = .next t) : ExecEffect i s t := by
  unfold arriveFrameOf at h
  split at h
  · cases h; exact .arrived _
  · cases h

/-- The inversion lemma of `exec`. -/
theorem exec_effect {i : Instr} {s t : State} (h : exec i s = .next t) : ExecEffect i s t := by
  cases i with
  | crcInit => cases h; exact .crcOnly 0 .done crcInit (by decide)
  | crcByte b => cases h; exact .crcOnly 0 _ (crcByte s.crc b) (by decide)
  | crcBlock bs => cases h; exact .crcOnly 0 _ (crc16 bs) (by decide)
  | crcCheck bs e => cases h; exact .crcOnly 0 _ (crc16 bs) (by decide)
  | frameBuild p =>
    simp only [exec, execFrameBuild, frameBuild] at h
    split_ifs at h with hp
    · cases h; exact .error s _
    · cases h; exact .built p _ (Nat.not_lt.mp hp)
  | frameSend p =>
    simp only [exec, execFrameSend] at h
    rcases frameSend_cases p s with ⟨ht, hp, h'⟩ | ⟨-, -, h'⟩ | ⟨-, h'⟩ <;> rw [h'] at h <;> cases h
    · exact .sent p _ ht hp
    · exact .error s _
    · exact .error s _
  | rxReceive d =>
    simp only [exec, execRxReceive, startReceive, needTransport] at h
    split_ifs at h with ht
    · cases h; exact .started d ht
    · cases h; exact .error s _
  | rxValidate p c =>
    simp only [exec, execRxValidate, rxValidate] at h
    split_ifs at h
    · cases h; exact .crcOnly 0 _ (crc16 p) (by decide)
    · cases h; exact .crcOnly 4 _ (crc16 p) (by decide)
  | encGetValues a => simp only [exec, execEncGetValues] at h; exact returnPayload_effect h
  | encScan => simp only [exec, execEncScan] at h; exact returnPayload_effect h
  | encOpenloop c e a => simp only [exec, execEncOpenloop] at h; exact returnPayload_effect h
  | encStop a => simp only [exec, execEncStop] at h; exact returnPayload_effect h
  | encJoystick x y p q a => simp only [exec, execEncJoystick] at h; exact returnPayload_effect h
  | encSetCurrent c a => simp only [exec, execEncSetCurrent] at h; exact returnPayload_effect h
  | encSetBrake c a => simp only [exec, execEncSetBrake] at h; exact returnPayload_effect h
  | encSetRpm r a => simp only [exec, execEncSetRpm] at h; exact returnPayload_effect h
  | encSetDuty d a => simp only [exec, execEncSetDuty] at h; exact returnPayload_effect h
  | fwdWrap a i => simp only [exec, execFwdWrap] at h; exact returnPayload_effect h
  | decTelemetry p =>
    simp only [exec, execDecTelemetry, decTelemetry] at h
    cases hm : telemetryOf s.params p with
    | ok m => rw [hm] at h; cases h; exact .decoded p m rfl hm
    | error e => rw [hm] at h; cases h; exact .error s e
  | decScanReply p =>
    simp only [exec, execDecScanReply] at h
    cases hm : scanReplyOf s.params p with
    | ok m => rw [hm] at h; cases h; exact .crcOnly 0 _ s.crc (by decide)
    | error e => rw [hm] at h; cases h; exact .error s e
  | readTelemetry =>
    simp only [exec, execReadTelemetry] at h
    split_ifs at h
    · split at h
      · cases h; exact .crcOnly 0 _ s.crc (by decide)
      · cases h
    · cases h; exact .crcOnly 0 _ s.crc (by decide)
  | requestTelemetry a => simp only [exec, execRequestTelemetry] at h; exact sendRequest_effect h
  | scanForControllers => simp only [exec, execScanForControllers] at h; exact sendRequest_effect h
  | sendCurrent c a => simp only [exec, execSendCurrent] at h; exact sendCommand_effect h
  | sendBrakeCurrent c a => simp only [exec, execSendBrakeCurrent] at h; exact sendCommand_effect h
  | sendRpm r a => simp only [exec, execSendRpm] at h; exact sendCommand_effect h
  | sendDuty d a => simp only [exec, execSendDuty] at h; exact sendCommand_effect h
  | sendJoystick x y p q a => simp only [exec, execSendJoystick] at h; exact sendCommand_effect h
  | runOpenloop c e a => simp only [exec, execRunOpenloop] at h; exact sendCommand_effect h
  | stop a => simp only [exec, execStop] at h; exact sendCommand_effect h
  | illegal c => cases h; exact .error s _
  | frameShort p => simp only [exec, execFrameShort] at h; exact arriveFrameOf_effect h
  | frameLong p => simp only [exec, execFrameLong] at h; exact arriveFrameOf_effect h
  | payloadGetValues => simp only [exec, execPayloadGetValues] at h; exact arriveFrameOf_effect h
  | payloadSetDuty d => simp only [exec, execPayloadSetDuty] at h; exact arriveFrameOf_effect h
  | payloadSetCurrent c => simp only [exec, execPayloadSetCurrent] at h; exact arriveFrameOf_effect h
  | payloadSetCurrentBrake c => simp only [exec, execPayloadSetCurrentBrake] at h; exact arriveFrameOf_effect h
  | payloadSetRpm r => simp only [exec, execPayloadSetRpm] at h; exact arriveFrameOf_effect h
  | payloadForward a i => simp only [exec, execPayloadForward] at h; exact arriveFrameOf_effect h
  | payloadSetChuckData x y p q => simp only [exec, execPayloadSetChuckData] at h; exact arriveFrameOf_effect h
  | payloadPingCan => simp only [exec, execPayloadPingCan] at h; exact arriveFrameOf_effect h
  | payloadOpenloop c e => simp only [exec, execPayloadOpenloop] at h; exact arriveFrameOf_effect h
  | payloadStop => simp only [exec, execPayloadStop] at h; exact arriveFrameOf_effect h
  | replyTelemetry t => simp only [exec, execReplyTelemetry] at h; exact arriveFrameOf_effect h
  | replyScan a => simp only [exec, execReplyScan] at h; exact arriveFrameOf_effect h

/-- An instruction of the link's channels only appends to the receive queue. -/
theorem exec_wire {i : Instr} {s t : State} (hc : i.channel ≠ .host) (h : exec i s = .next t) :
    ∃ bs, t = arrive bs s := by
  have wire : ∀ p, arriveFrameOf p s = .next t → ∃ bs, t = arrive bs s := by
    intro p h
    unfold arriveFrameOf at h
    split at h
    · cases h; exact ⟨_, rfl⟩
    · cases h
  cases i <;> first
    | exact absurd rfl hc
    | (simp only [exec, execFrameShort, execFrameLong, execPayloadGetValues, execPayloadSetDuty, execPayloadSetCurrent, execPayloadSetCurrentBrake, execPayloadSetRpm, execPayloadForward, execPayloadSetChuckData, execPayloadPingCan, execPayloadOpenloop, execPayloadStop, execReplyTelemetry, execReplyScan] at h; exact wire _ h)

/-- Whatever an optional decoding gives is a unit of a channel. -/
def OnlyChannel (c : Channel) (o : Option (Instr × List Byte)) : Prop := ∀ i r, o = some (i, r) → i.channel = c

theorem onlyChannel_none (c : Channel) : OnlyChannel c none := by intro i r h; cases h

theorem onlyChannel_some {c : Channel} {i : Instr} {r : List Byte} (h : i.channel = c) : OnlyChannel c (some (i, r)) := by
  intro j q hj; cases hj; exact h

theorem onlyChannel_map {α : Type} {c : Channel} (o : Option α) {f : α → Instr × List Byte}
    (h : ∀ x, (f x).1.channel = c) : OnlyChannel c (o.map f) := by
  intro i r hi
  obtain ⟨x, -, hx⟩ := Option.map_eq_some_iff.mp hi
  have := h x
  rwa [hx] at this

theorem onlyChannel_bind {α : Type} {c : Channel} (o : Option α) {f : α → Option (Instr × List Byte)}
    (h : ∀ x, OnlyChannel c (f x)) : OnlyChannel c (o.bind f) := by
  intro i r hi
  obtain ⟨x, -, hx⟩ := Option.bind_eq_some_iff.mp hi
  exact h x i r hx

theorem onlyChannel_ite {c : Channel} {p : Prop} [Decidable p] {a b : Option (Instr × List Byte)}
    (ha : OnlyChannel c a) (hb : OnlyChannel c b) : OnlyChannel c (if p then a else b) := by
  split <;> assumption

theorem decodeHostArgs_channel (op : Byte) (l : List Byte) : OnlyChannel .host (decodeHostArgs op l) := by
  unfold decodeHostArgs
  split <;> repeat first
    | exact onlyChannel_some rfl
    | exact onlyChannel_map _ fun _ => rfl
    | refine onlyChannel_bind _ fun _ => ?_

theorem decodeFrame_channel (P : Params) (l : List Byte) : OnlyChannel .frame (decodeFrame P l) := by
  cases l with
  | nil => exact onlyChannel_none _
  | cons m l =>
    unfold decodeFrame
    refine onlyChannel_ite (onlyChannel_bind _ fun _ => onlyChannel_map _ fun _ => rfl) ?_
    refine onlyChannel_ite (onlyChannel_bind _ fun _ => ?_) (onlyChannel_none _)
    exact onlyChannel_ite (onlyChannel_none _) (onlyChannel_map _ fun _ => rfl)

theorem decodePayload_channel (P : Params) (l : List Byte) : OnlyChannel .payload (decodePayload P l) := by
  cases l with
  | nil => exact onlyChannel_none _
  | cons i l =>
    unfold decodePayload
    refine onlyChannel_ite (onlyChannel_some rfl) ?_
    refine onlyChannel_ite (onlyChannel_map _ fun _ => rfl) ?_
    refine onlyChannel_ite (onlyChannel_map _ fun _ => rfl) ?_
    refine onlyChannel_ite (onlyChannel_map _ fun _ => rfl) ?_
    refine onlyChannel_ite (onlyChannel_map _ fun _ => rfl) ?_
    refine onlyChannel_ite (onlyChannel_bind _ fun _ => onlyChannel_bind _ fun _ => onlyChannel_map _ fun _ => rfl) ?_
    refine onlyChannel_ite (onlyChannel_bind _ fun _ => onlyChannel_bind _ fun _ => onlyChannel_bind _ fun _ =>
      onlyChannel_bind _ fun _ => onlyChannel_map _ fun _ => rfl) ?_
    refine onlyChannel_ite (onlyChannel_some rfl) ?_
    refine onlyChannel_ite (onlyChannel_bind _ fun _ => onlyChannel_map _ fun _ => rfl) ?_
    exact onlyChannel_ite (onlyChannel_some rfl) (onlyChannel_none _)

theorem decodeReply_channel (P : Params) (l : List Byte) : OnlyChannel .reply (decodeReply P l) := by
  cases l with
  | nil => exact onlyChannel_none _
  | cons i l =>
    unfold decodeReply
    refine onlyChannel_ite (onlyChannel_ite (onlyChannel_some rfl) (onlyChannel_none _)) ?_
    exact onlyChannel_ite (onlyChannel_some rfl) (onlyChannel_none _)

/-- What the decoder gives at a channel is a unit of that channel. -/
theorem decode_channel {P : Params} {c : Channel} {l more : List Byte} {i : Instr} (h : decode P c l = some (i, more)) :
    i.channel = c := by
  cases c with
  | host =>
    cases l with
    | nil => cases h
    | cons op l => exact decodeHostArgs_channel op l i more h
  | frame => exact decodeFrame_channel P l i more h
  | payload => exact decodePayload_channel P l i more h
  | reply => exact decodeReply_channel P l i more h

/-! ## The receiver -/

/-- Everything a receiver step that goes on to a next state can do (42_frame_receiver.md R143 to R150), for the operation
`r` in progress. -/
inductive RxEffect (r : Receiver) (s : State) : State → Prop where
  | expired (h : s.deadline ≤ s.clock) : RxEffect r s (endedWith 2 .timeout { s with rxst := .idle, rxcnt := 0 })
  | waited (h : s.clock < s.deadline) (hq : s.rxQueue = []) : RxEffect r s s
  | dropped (b : Byte) (q : List Byte) (hs : s.rxst = .seekStart) (hq : s.rxQueue = b :: q) (hd : s.clock < s.deadline)
      (ha : b ≠ s.params.markerA) (hb : b ≠ s.params.markerB) : RxEffect r s { s with rxQueue := q }
  | opened (b : Byte) (q : List Byte) (kind : BitVec 1) (hs : s.rxst = .seekStart) (hq : s.rxQueue = b :: q) (hd : s.clock < s.deadline) :
      RxEffect r s { s with
        rxQueue := q, rxkind := kind, rxneed := if kind = 0 then 1 else 2, rxlencnt := 0, rxlen := 0, rxst := .readLength }
  | lengthByte (b : Byte) (q : List Byte) (hs : s.rxst = .readLength) (hq : s.rxQueue = b :: q) (hd : s.clock < s.deadline)
      (hn : s.rxlencnt + 1 ≠ s.rxneed) :
      RxEffect r s { s with
        rxQueue := q, rxlen := (s.rxlen <<< 8) ||| b.zeroExtend 16, rxlencnt := s.rxlencnt + 1 }
  | lengthDone (b : Byte) (q : List Byte) (hs : s.rxst = .readLength) (hq : s.rxQueue = b :: q) (hd : s.clock < s.deadline)
      (hn : s.rxlencnt + 1 = s.rxneed)
      (hl : ((s.rxlen <<< 8) ||| b.zeroExtend 16).toNat ≤ s.params.rxMaxPayload) :
      RxEffect r s { s with
        rxQueue := q, rxlen := (s.rxlen <<< 8) ||| b.zeroExtend 16, rxlencnt := s.rxlencnt + 1, rxcnt := 0
        rxst := .accumulate }
  | tooLong (b : Byte) (q : List Byte) (len : BitVec 16) (hs : s.rxst = .readLength) (hq : s.rxQueue = b :: q) (hd : s.clock < s.deadline)
      (hl : s.params.rxMaxPayload < len.toNat) :
      RxEffect r s (endedWith 3 (.malformed len) { s with
        rxQueue := q, rxlen := len, rxlencnt := s.rxlencnt + 1, rxst := .idle })
  | stored (b : Byte) (q : List Byte) (hs : s.rxst = .accumulate) (hq : s.rxQueue = b :: q) (hd : s.clock < s.deadline)
      (hi : s.rxcnt.toNat < s.params.rxMaxPayload + 3) (hn : (s.rxcnt + 1).toNat ≠ s.rxlen.toNat + 3) :
      RxEffect r s { s with rxQueue := q, rxbuf := memWrite s.rxbuf s.rxcnt.toNat b, rxcnt := s.rxcnt + 1 }
  | discarded (b : Byte) (q : List Byte) (hs : s.rxst = .accumulate) (hq : s.rxQueue = b :: q) (hd : s.clock < s.deadline)
      (hi : s.rxcnt.toNat < s.params.rxMaxPayload + 3) :
      RxEffect r s { s with
        rxQueue := q, rxbuf := memWrite s.rxbuf s.rxcnt.toNat b, rxcnt := 0, rxst := .seekStart }
  | assembled (b : Byte) (q : List Byte) (st : BitVec 8) (res : HostResult) (k : BitVec 16) (m : Option Telem) (v : Bool)
      (hs : s.rxst = .accumulate) (hq : s.rxQueue = b :: q) (hd : s.clock < s.deadline) (hi : s.rxcnt.toNat < s.params.rxMaxPayload + 3)
      (hst : st.toNat ≤ 9) (hm : (m = s.telem ∧ v = s.tvalid) ∨
        (r = .requestTelemetry ∧ v = true ∧ st = 0 ∧ s.rxcnt.toNat = s.rxlen.toNat + 2 ∧ b = s.params.markerStop ∧
          crc16 (memReadAll s.rxbuf 0 s.rxlen.toNat) =
            ofBe16 (memByte s.rxbuf s.rxlen.toNat) (memByte s.rxbuf (s.rxlen.toNat + 1)) ∧
          ∃ x, m = some x ∧ telemetryOf s.params (memReadAll s.rxbuf 0 s.rxlen.toNat) = .ok x)) :
      RxEffect r s (ended st res { s with
        rxQueue := q, rxbuf := memWrite s.rxbuf s.rxcnt.toNat b, rxcnt := s.rxcnt + 1, rxst := .idle
        crc := k, telem := m, tvalid := v })

/-- Everything a block step can do. -/
inductive BlockEffect (s : State) : State → Prop where
  | idle (h : s.activity = .idle) : BlockEffect s s
  | armed (r : Receiver) (h : s.activity = .sent r) (ht : s.transportPresent = true) :
      BlockEffect s { s with
        deadline := s.clock + s.params.rxTimeout, rxst := .seekStart, rxcnt := 0, activity := .receiving r }
  | noTransport (r : Receiver) (h : s.activity = .sent r) (ht : s.transportPresent = false) :
      BlockEffect s (endedWith 6 .transportUnavailable s)
  | receiving (r : Receiver) (t : State) (h : s.activity = .receiving r) (ht : RxEffect r s t) : BlockEffect s t

theorem rxWithByte_effect {r : Receiver} {s t : State} {k : Byte → State → RxStep}
    (hk : ∀ b q, s.clock < s.deadline → s.rxQueue = b :: q →
      (match k b { s with rxQueue := q } with
        | .wait s1 => .next s1
        | .more s1 => .next s1
        | .frame p c s1 => endReceive r p c s1
        | .raised e s1 => .next (takeError e s1)
        | .fault f => .fault f : Host.Outcome State Fault Refusal) = .next t → RxEffect r s t)
    (h : (match rxWithByte s k with
        | .wait s1 => .next s1
        | .more s1 => .next s1
        | .frame p c s1 => endReceive r p c s1
        | .raised e s1 => .next (takeError e s1)
        | .fault f => .fault f : Host.Outcome State Fault Refusal) = .next t) : RxEffect r s t := by
  unfold rxWithByte at h
  by_cases hd : s.deadline ≤ s.clock
  · rw [if_pos hd] at h
    cases h
    exact .expired hd
  · rw [if_neg hd] at h
    cases hq : s.rxQueue with
    | nil =>
      rw [hq] at h
      cases h
      exact .waited (Nat.not_le.mp hd) hq
    | cons b q =>
      rw [hq] at h
      exact hk b q (Nat.not_le.mp hd) hq h

/-- The inversion lemma of `blockStep`. -/
theorem blockStep_effect {s t : State} (h : blockStep s = .next t) : BlockEffect s t := by
  unfold blockStep at h
  cases ha : s.activity with
  | idle => rw [ha] at h; cases h; exact .idle ha
  | sent r =>
    rw [ha] at h
    simp only [startReceive, needTransport] at h
    cases ht : s.transportPresent <;> simp only [ht, Bool.false_eq_true, if_true, if_false] at h <;> cases h
    · exact .noTransport r ha ht
    · exact ht ▸ .armed r ha ht
  | receiving r =>
    rw [ha] at h
    refine .receiving r t ha ?_
    simp only [rxStep] at h
    cases hs : s.rxst with
    | idle => rw [hs] at h; cases h
    | done => rw [hs] at h; cases h
    | seekStart =>
      rw [hs] at h
      refine rxWithByte_effect (fun b q hd hq h => ?_) h
      simp only [rxSeekStart] at h
      by_cases h1 : b = s.params.markerA
      · rw [if_pos h1] at h; cases h; exact .opened b q 0 hs hq hd
      · rw [if_neg h1] at h
        by_cases h2 : b = s.params.markerB
        · rw [if_pos h2] at h; cases h; exact .opened b q 1 hs hq hd
        · rw [if_neg h2] at h; cases h; exact .dropped b q hs hq hd h1 h2
    | readLength =>
      rw [hs] at h
      refine rxWithByte_effect (fun b q hd hq h => ?_) h
      simp only [rxReadLength, rxLengthComplete] at h
      by_cases h1 : s.rxlencnt + 1 = s.rxneed
      · rw [if_pos h1] at h
        by_cases h2 : s.params.rxMaxPayload < ((s.rxlen <<< 8) ||| b.zeroExtend 16).toNat
        · rw [if_pos h2] at h; cases h; exact .tooLong b q _ hs hq hd h2
        · rw [if_neg h2] at h; cases h; exact .lengthDone b q hs hq hd h1 (Nat.not_lt.mp h2)
      · rw [if_neg h1] at h; cases h; exact .lengthByte b q hs hq hd h1
    | accumulate =>
      rw [hs] at h
      refine rxWithByte_effect (fun b q hd hq h => ?_) h
      simp only [rxAccumulate, rxComplete] at h
      by_cases h0 : s.params.rxMaxPayload + 3 ≤ s.rxcnt.toNat
      · rw [if_pos h0] at h; cases h
      · rw [if_neg h0] at h
        have hi := Nat.not_le.mp h0
        by_cases h1 : (s.rxcnt + 1).toNat = s.rxlen.toNat + 3
        · rw [if_pos h1] at h
          by_cases h2 : memByte (memWrite s.rxbuf s.rxcnt.toNat b) (s.rxlen.toNat + 2) = s.params.markerStop
          · rw [if_pos h2] at h
            dsimp only at h
            rcases endReceive_cases r (memReadAll (memWrite s.rxbuf s.rxcnt.toNat b) 0 s.rxlen.toNat)
              (ofBe16 (memByte (memWrite s.rxbuf s.rxcnt.toNat b) s.rxlen.toNat)
                (memByte (memWrite s.rxbuf s.rxcnt.toNat b) (s.rxlen.toNat + 1)))
              { s with rxQueue := q, rxbuf := memWrite s.rxbuf s.rxcnt.toNat b, rxcnt := s.rxcnt + 1, rxst := .idle } with
              ⟨st, res, k, hst, he⟩ | ⟨m, hr, hc, hm, he⟩
            · rw [he] at h; cases h
              exact .assembled b q st res k s.telem s.tvalid hs hq hd hi hst (.inl ⟨rfl, rfl⟩)
            · rw [he] at h; cases h
              have hcnt : s.rxcnt.toNat = s.rxlen.toNat + 2 := by
                rw [BitVec.toNat_add] at h1
                have := s.rxcnt.isLt
                simp at h1
                omega
              have hread : ∀ k, k < s.rxlen.toNat + 2 →
                  memByte (memWrite s.rxbuf s.rxcnt.toNat b) k = memByte s.rxbuf k := fun k hk => by
                unfold memByte
                rw [memRead_memWrite_other _ _ (by omega)]
              have hall : memReadAll (memWrite s.rxbuf s.rxcnt.toNat b) 0 s.rxlen.toNat = memReadAll s.rxbuf 0 s.rxlen.toNat :=
                List.map_congr_left fun k hk => hread _ (by have := List.mem_range.mp hk; omega)
              rw [hall, hread _ (by omega), hread _ (by omega)] at hc
              rw [hall] at hm
              rw [← hcnt, memByte_of_memRead (memRead_memWrite_same _ _ _)] at h2
              exact .assembled b q 0 _ _ (some m) true hs hq hd hi (by decide)
                (.inr ⟨hr, rfl, rfl, hcnt, h2, hc, m, rfl, hm⟩)
          · rw [if_neg h2] at h; cases h; exact .discarded b q hs hq hd hi
        · rw [if_neg h1] at h; cases h; exact .stored b q hs hq hd hi h1

/-! ## The step -/

/-- Everything a step can do. -/
inductive StepEffect (s : State) : State → Prop where
  | block (rest : List Event) (t : State) (hs : s.schedule = rest ∨ s.schedule = .blockStep :: rest)
      (h : BlockEffect { s with schedule := rest } t) : StepEffect s t
  | ran (c : Channel) (bytes more : List Byte) (rest : List Event) (i : Instr) (t : State)
      (hs : s.schedule = .present c bytes :: rest) (hf : c = .host → s.activity = .idle)
      (hd : decode s.params c bytes = some (i, more)) (h : exec i { s with schedule := rest } = .next t) : StepEffect s t
  | arrived (bs : List Byte) (rest : List Event) (hs : s.schedule = .arrive bs :: rest) :
      StepEffect s (arrive bs { s with schedule := rest })
  | advanced (n : Nat) (rest : List Event) (hs : s.schedule = .advance n :: rest) :
      StepEffect s (advanceClock n { s with schedule := rest })
  | wasReset (rest : List Event) (hs : s.schedule = .reset :: rest) : StepEffect s (applyReset { s with schedule := rest })

/-- The inversion lemma of `step`. -/
theorem step_effect {s t : State} (h : step s = .next t) : s.params.valid = true ∧ StepEffect s t := by
  unfold step at h
  by_cases hv : s.params.valid = true
  · rw [if_pos hv] at h
    refine ⟨hv, ?_⟩
    unfold nextAct at h
    split at h
    · rename_i hs; exact .block s.schedule t (.inl rfl) (blockStep_effect h)
    · rename_i c bytes rest hs
      by_cases hb : portBusy c s = true
      · rw [if_pos hb] at h; exact .block s.schedule t (.inl rfl) (blockStep_effect h)
      · rw [if_neg hb] at h
        unfold presentUnit at h
        split at h
        · rename_i i more hd
          refine .ran c bytes more rest i t hs (fun hc => ?_) hd h
          simpa [portBusy, hc] using hb
        · cases h
    · rename_i bs rest hs; cases h; exact .arrived bs rest hs
    · rename_i n rest hs; cases h; exact .advanced n rest hs
    · rename_i rest hs; exact .block rest t (.inr hs) (blockStep_effect h)
    · rename_i rest hs; cases h; exact .wasReset rest hs
  · rw [if_neg hv] at h; cases h

end Sys2Proof.Machine
end

