-- ==== Sys2Proof/Tests/Slice0.lean ====
section
/-! SUPPORT. Tests: ill-formed terms that `wellFormed` refuses, words written out from the spec's encodings, one-step
vectors whose values are those of spec/95_test_vectors.md (or computed by hand from the rule named), and a witness for
the hypotheses of each obligation. -/
namespace Sys2Proof.Tests
open Sys2Proof Sys2Proof.Machine

set_option maxRecDepth 100000

/-! ## Helpers -/

/-- The next state, where there is one. -/
def after : Host.Outcome State Fault Refusal → Option State
  | .next t => some t
  | .fault _ => none
  | .refused _ => none

/-- The status and the result an outcome presents. -/
def presents (o : Host.Outcome State Fault Refusal) : Option (BitVec 8 × Option HostResult) :=
  (after o).map fun t => (t.status, t.result)

/-- The status and the transmit stream after an outcome. -/
def sends (o : Host.Outcome State Fault Refusal) : Option (BitVec 8 × List Byte) :=
  (after o).map fun t => (t.status, t.txStream)

/-- The receive queue after an outcome. -/
def queues (o : Host.Outcome State Fault Refusal) : Option (List Byte) := (after o).map State.rxQueue

/-- After reset, with a sink that accepts every byte. -/
def ready : State := { State.reset with sinkAnswers := [65541] }

/-- The T1 record and the fixture payload (95_test_vectors.md S3). -/
def fixture : Telem := ⟨1234, 500, 500, 1500, 480, 12345, 0, 1000, 1000⟩
def fixturePayload : List Byte :=
  [0x04, 0x00, 0x00, 0x04, 0xD2, 0x00, 0x00, 0x01, 0xF4, 0x01, 0xF4, 0x00, 0x00, 0x05, 0xDC, 0x01, 0xE0] ++
  [0x00, 0x00, 0x30, 0x39, 0x00, 0x00, 0x00, 0x00, 0x00, 0x00, 0x03, 0xE8, 0x00, 0x00, 0x03, 0xE8]

/-- A receive in progress: in the state given, with the deadline 1000 and the clock at 0. -/
def receiving (st : RxState) (q : List Byte) : State :=
  { State.reset with deadline := 1000, rxst := st, activity := .receiving .rxReceive, rxQueue := q }

/-- A long length field, no byte of it read (R25). -/
def lengthDue : State := { receiving .readLength [] with rxkind := 1, rxneed := 2 }

/-- Vector V1 after its step 5: one payload byte of one stored. -/
def midFrame (q : List Byte) : State :=
  { receiving .accumulate q with rxneed := 1, rxlencnt := 1, rxlen := 1, rxcnt := 1, rxbuf := [(0, 0x04)] }

/-- Vector V1 after its step 7: the stop byte is due. -/
def atStop (q : List Byte) : State :=
  { receiving .accumulate q with
    rxneed := 1, rxlencnt := 1, rxlen := 1, rxcnt := 3, rxbuf := [(0, 0x04), (1, 0x40), (2, 0x84)] }

/-- The state with other parameters. -/
def withParams (s : State) (P : Params) : State := { s with params := P }

/-! ## WellFormed: an ill-formed term for each check, refused, and the boundary beside it -/

theorem test_listed_code_is_not_illegal :
    (Instr.illegal 0x01).wellFormed = false ∧ (Instr.illegal 0x07).wellFormed = true := by decide
theorem test_short_frame_below_256 :
    (Instr.frameShort (List.replicate 256 0)).wellFormed = false ∧
    (Instr.frameShort (List.replicate 255 0)).wellFormed = true := by
  simp only [Instr.wellFormed, shortLimit, List.length_replicate]; decide
theorem test_long_frame_256_to_65535 :
    (Instr.frameLong (List.replicate 255 0)).wellFormed = false ∧
    (Instr.frameLong (List.replicate 65536 0)).wellFormed = false ∧
    (Instr.frameLong (List.replicate 256 0)).wellFormed = true ∧
    (Instr.frameLong (List.replicate 65535 0)).wellFormed = true := by
  simp only [Instr.wellFormed, shortLimit, maxPayload, List.length_replicate]; decide
theorem test_envelope_at_most_255 :
    (Instr.payloadForward 1 (List.replicate 256 0)).wellFormed = false ∧
    (Instr.payloadForward 1 (List.replicate 255 0)).wellFormed = true := by
  simp only [Instr.wellFormed, List.length_replicate]; decide

/-! ## Decoding: words written out from 30_encoding.md R71 (the arguments as in notes/assumptions/1.md), R74 to R82 -/

theorem test_decode_crc :
    decode .pRef .host [0x01] = some (.crcInit, []) ∧
    decode .pRef .host [0x02, 0x31, 0xFF] = some (.crcByte 0x31, [0xFF]) ∧
    decode .pRef .host [0x03, 0x02, 0x31, 0x32] = some (.crcBlock [0x31, 0x32], []) ∧
    decode .pRef .host [0x04, 0x01, 0x04, 0x40, 0x84] = some (.crcCheck [0x04] 0x4084, []) := by decide
theorem test_decode_frame_operations :
    decode .pRef .host [0x10, 0x01, 0x04] = some (.frameBuild [0x04], []) ∧
    decode .pRef .host [0x11, 0x01, 0x04] = some (.frameSend [0x04], []) ∧
    decode .pRef .host [0x20, 0xE8, 0x07] = some (.rxReceive 1000, []) ∧
    decode .pRef .host [0x21, 0x01, 0x04, 0x40, 0x84] = some (.rxValidate [0x04] 0x4084, []) := by decide
theorem test_decode_commands :
    decode .pRef .host [0x30, 0x01, 0x01] = some (.encGetValues (some 1), []) ∧
    decode .pRef .host [0x31] = some (.encScan, []) ∧
    decode .pRef .host [0x32, 0x40, 0xA0, 0x00, 0x00, 0x00, 0x00, 0x0B, 0xB8, 0x00] =
      some (.encOpenloop 0x40A00000 3000 none, []) ∧
    decode .pRef .host [0x33, 0x01, 0x00] = some (.encStop (some 0), []) ∧
    decode .pRef .host [0x34, 0xFF, 0xFF, 0xFF, 0xFF, 0x00, 0x00, 0x00, 0x7F, 0x01, 0x00, 0x00] =
      some (.encJoystick (-1) 127 true false none, []) ∧
    decode .pRef .host [0x35, 0x41, 0x48, 0x00, 0x00, 0x01, 0x05] = some (.encSetCurrent 0x41480000 (some 5), []) ∧
    decode .pRef .host [0x36, 0x40, 0x40, 0x00, 0x00, 0x00] = some (.encSetBrake 0x40400000 none, []) ∧
    decode .pRef .host [0x37, 0xFF, 0xFF, 0xFC, 0x18, 0x00] = some (.encSetRpm (-1000) none, []) ∧
    decode .pRef .host [0x38, 0x3E, 0x80, 0x00, 0x00, 0x00] = some (.encSetDuty 0x3E800000 none, []) ∧
    decode .pRef .host [0x3F, 0x05, 0x01, 0x04] = some (.fwdWrap 0x05 [0x04], []) := by decide
theorem test_decode_telemetry :
    decode .pRef .host [0x40, 0x01, 0x05] = some (.decTelemetry [0x05], []) ∧
    decode .pRef .host [0x41, 0x03, 0x3E, 0x01, 0x05] = some (.decScanReply [0x3E, 0x01, 0x05], []) ∧
    decode .pRef .host [0x42] = some (.readTelemetry, []) := by decide
theorem test_decode_composites :
    decode .pRef .host [0x50, 0x00] = some (.requestTelemetry none, []) ∧
    decode .pRef .host [0x51] = some (.scanForControllers, []) ∧
    decode .pRef .host [0x52, 0x41, 0x48, 0x00, 0x00, 0x00] = some (.sendCurrent 0x41480000 none, []) ∧
    decode .pRef .host [0x53, 0x40, 0x40, 0x00, 0x00, 0x00] = some (.sendBrakeCurrent 0x40400000 none, []) ∧
    decode .pRef .host [0x54, 0xFF, 0xFF, 0xFC, 0x18, 0x00] = some (.sendRpm (-1000) none, []) ∧
    decode .pRef .host [0x55, 0x3E, 0x80, 0x00, 0x00, 0x00] = some (.sendDuty 0x3E800000 none, []) ∧
    decode .pRef .host [0x56, 0xFF, 0xFF, 0xFF, 0xFF, 0x00, 0x00, 0x00, 0x7F, 0x01, 0x00, 0x00] =
      some (.sendJoystick (-1) 127 true false none, []) ∧
    decode .pRef .host [0x57, 0x40, 0xA0, 0x00, 0x00, 0x00, 0x00, 0x0B, 0xB8, 0x00] =
      some (.runOpenloop 0x40A00000 3000 none, []) ∧
    decode .pRef .host [0x58, 0x00] = some (.stop none, []) := by decide
theorem test_decode_illegal :
    decode .pRef .host [0x00] = some (.illegal 0x00, []) ∧ decode .pRef .host [0x05] = some (.illegal 0x05, []) ∧
    decode .pRef .host [0x3E] = some (.illegal 0x3E, []) ∧ decode .pRef .host [0xFF] = some (.illegal 0xFF, []) := by
  decide
theorem test_decode_frames :
    decode .pRef .frame [0x02, 0x01, 0x04, 0x40, 0x84, 0x03] = some (.frameShort [0x04], []) ∧
    decode .pRef .frame [0x02, 0x00, 0x00, 0x00, 0x03, 0x77] = some (.frameShort [], [0x77]) ∧
    decode .pRef .frame [0x02, 0x01, 0x04, 0x40, 0x85, 0x03] = none ∧
    decode .pRef .frame ([0x03, 0x01, 0x00] ++ List.replicate 256 0x00 ++ [0x00, 0x00, 0x03]) =
      some (.frameLong (List.replicate 256 0x00), []) := by
  refine ⟨by decide, by decide, by decide, ?_⟩
  rfl
theorem test_decode_payloads :
    decode .pRef .payload [0x04] = some (.payloadGetValues, []) ∧
    decode .pRef .payload [0x05, 0x00, 0x00, 0x00, 0xFA] = some (.payloadSetDuty 250, []) ∧
    decode .pRef .payload [0x06, 0x00, 0x00, 0x04, 0xE2] = some (.payloadSetCurrent 1250, []) ∧
    decode .pRef .payload [0x07, 0x00, 0x00, 0x01, 0x2C] = some (.payloadSetCurrentBrake 300, []) ∧
    decode .pRef .payload [0x08, 0xFF, 0xFF, 0xFC, 0x18] = some (.payloadSetRpm (-1000), []) ∧
    decode .pRef .payload [0x22, 0x01, 0x01, 0x04] = some (.payloadForward 0x01 [0x04], []) ∧
    decode .pRef .payload [0x23, 0xFF, 0x7F, 0x01, 0x00, 0x00, 0x00, 0x00, 0x00, 0x00, 0x00] =
      some (.payloadSetChuckData 0xFF 0x7F true false, []) ∧
    decode .pRef .payload [0x3E] = some (.payloadPingCan, []) ∧
    decode .pRef .payload [0xF0, 0x00, 0x00, 0x01, 0xF4, 0x00, 0x00, 0x0B, 0xB8] = some (.payloadOpenloop 500 3000, []) ∧
    decode .pRef .payload [0xF1] = some (.payloadStop, []) := by decide
theorem test_decode_replies :
    decode .pRef .reply fixturePayload = some (.replyTelemetry fixture, []) ∧
    decode .pRef .reply [0x3E, 0x01, 0x05] = some (.replyScan [0x01, 0x05], []) := by decide

/-- Words of spec/opcode_table.json as the table numbers them. -/
theorem test_table_words :
    decodeTableWord 8 0x01 = some .crcInit ∧ decodeTableWord 16 0x3102 = some (.crcByte 0x31) ∧
    decodeTableWord 8 0x58 = some (.stop none) ∧ decodeTableWord 8 0x00 = some (.illegal 0x00) ∧
    decodeTableWord 8 0x06 = some (.payloadSetCurrent 0) ∧ decodeTableWord 8 0xF1 = some .payloadStop := by decide

/-! ## The CRC engine: 95_test_vectors.md section 2, 40_crc.md examples -/

theorem test_crc16_vectors :
    crc16 [] = 0x0000 ∧ crc16 [0x01] = 0x1021 ∧ crc16 [0x80] = 0x9188 ∧ crc16 [0xFF] = 0x1EF0 ∧
    crc16 [0x31, 0x32, 0x33, 0x34, 0x35, 0x36, 0x37, 0x38, 0x39] = 0x31C3 ∧ crc16 [0xFF, 0xFF] = 0x1D0F ∧
    crc16 fixturePayload = 0x1535 := by decide
theorem test_crcInit_clears : (after (exec .crcInit { ready with crc := 0x1234 })).map State.crc = some 0x0000 := by decide
theorem test_crcByte_continues :
    presents (exec (.crcByte 0x32) { ready with crc := 0x2672 }) = some (0, some (.crc 0x20B5)) := by decide
theorem test_crcBlock_starts_anew :
    presents (exec (.crcBlock [0x41]) { ready with crc := 0xFFFF }) = some (0, some (.crc 0x58E5)) := by decide
theorem test_crcCheck_match :
    presents (exec (.crcCheck [0x04] 0x4084) ready) = some (0, some (.isMatch true)) := by decide
theorem test_crcCheck_mismatch_is_no_error :
    presents (exec (.crcCheck [0x04] 0x4085) ready) = some (0, some (.isMatch false)) := by decide

/-! ## The frame encoder: 95_test_vectors.md section 3 -/

theorem test_frameBuild_of_one_byte :
    presents (exec (.frameBuild [0x04]) ready) = some (0, some (.frame [0x02, 0x01, 0x04, 0x40, 0x84, 0x03])) := by decide
theorem test_frameBuild_of_nothing :
    presents (exec (.frameBuild []) ready) = some (0, some (.frame [0x02, 0x00, 0x00, 0x00, 0x03])) := by decide
theorem test_frameSend_all_accepted :
    sends (exec (.frameSend [0x06, 0x00, 0x00, 0x04, 0xE2]) ready) =
      some (0, [0x02, 0x05, 0x06, 0x00, 0x00, 0x04, 0xE2, 0xDC, 0x2D, 0x03]) := by decide
theorem test_frameSend_short_write :
    (after (exec (.frameSend [0x04]) { ready with sinkAnswers := [3] })).map
      (fun t => (t.txStream, t.txcount, t.status)) = some ([0x02, 0x01, 0x04], 3, 0) := by decide

/-! ## The frame receiver: 95_test_vectors.md section 4 -/

theorem test_rxReceive_starts :
    (after (exec (.rxReceive 1000) ready)).map (fun t => (t.rxst, t.deadline)) = some (.seekStart, 1000) := by decide
theorem test_rxReceive_without_transport :
    presents (exec (.rxReceive 1000) { ready with transportPresent := false }) =
      some (6, some (.error .transportUnavailable)) := by decide
/-- V1 step 3. -/
theorem test_seekStart_marker :
    (after (step (receiving .seekStart [0x02, 0x01]))).map (fun t => (t.rxst, t.rxneed, t.rxQueue)) =
      some (.readLength, 1, [0x01]) := by decide
/-- V4: the two bytes of a long length, most significant first. -/
theorem test_readLength_high_byte :
    (after (step { lengthDue with rxQueue := [0x02, 0x01] })).map (fun t => (t.rxst, t.rxlen, t.rxlencnt)) =
      some (.readLength, 0x0002, 1) := by decide
theorem test_readLength_low_byte :
    (after (step { lengthDue with rxlencnt := 1, rxlen := 0x0002, rxQueue := [0x01] })).map
      (fun t => (t.rxst, t.rxlen, t.rxcnt)) = some (.accumulate, 513, 0) := by decide
/-- V1 step 6. -/
theorem test_accumulate_stores :
    (after (step (midFrame [0x40, 0x84]))).map (fun t => (t.rxbuf, t.rxcnt)) = some ([(0, 0x04), (1, 0x40)], 2) := by
  decide
/-- V1 step 8. -/
theorem test_stop_byte_completes :
    presents (step (atStop [0x03, 0x77])) = some (0, some (.payloadCrc [0x04] 0x4084)) := by decide
/-- R149: a stop mismatch goes back to the search, the deadline as it was. -/
theorem test_stop_mismatch_searches_on :
    (after (step (atStop [0x04]))).map (fun t => (t.rxst, t.rxcnt, t.deadline)) = some (.seekStart, 0, 1000) := by decide
/-- V6. -/
theorem test_expiry_reads_no_byte :
    (after (step { receiving .seekStart [0x02, 0x01] with clock := 1000 })).map
      (fun t => (t.status, t.rxst, t.rxQueue)) = some (2, .idle, [0x02, 0x01]) := by decide
theorem test_rxValidate_match : presents (exec (.rxValidate [0x04] 0x4084) ready) = some (0, some (.payload [0x04])) := by decide
/-- V13. -/
theorem test_rxValidate_mismatch :
    presents (exec (.rxValidate [0x04] 0x4085) ready) = some (4, some (.error (.crcMismatch 0x4085 0x4084))) := by decide

/-! ## The command codec: 95_test_vectors.md section 5 -/

theorem test_encGetValues : presents (exec (.encGetValues (some 1)) ready) = some (0, some (.payload [0x22, 0x01, 0x01, 0x04])) := by
  decide
theorem test_encScan : presents (exec .encScan ready) = some (0, some (.payload [0x3E])) := by decide
theorem test_encOpenloop :
    presents (exec (.encOpenloop 0x40A00000 3000 none) ready) =
      some (0, some (.payload [0xF0, 0x00, 0x00, 0x01, 0xF4, 0x00, 0x00, 0x0B, 0xB8])) := by decide
theorem test_encStop_address_zero : presents (exec (.encStop (some 0)) ready) = some (0, some (.payload [0x22, 0x00, 0x01, 0xF1])) := by
  decide
/-- K11. -/
theorem test_encJoystick :
    presents (exec (.encJoystick (-1) 127 true false none) ready) =
      some (0, some (.payload [0x23, 0xFF, 0x7F, 0x01, 0x00, 0x00, 0x00, 0x00, 0x00, 0x00, 0x00])) := by decide
/-- F18: the low 8 bits. -/
theorem test_encJoystick_truncates :
    presents (exec (.encJoystick 256 (-129) false false none) ready) =
      some (0, some (.payload [0x23, 0x00, 0x7F, 0x00, 0x00, 0x00, 0x00, 0x00, 0x00, 0x00, 0x00])) := by decide
/-- K5: a tie goes away from zero. -/
theorem test_encSetCurrent_tie :
    presents (exec (.encSetCurrent 0xBE000000 none) ready) = some (0, some (.payload [0x06, 0xFF, 0xFF, 0xFF, 0xF3])) := by decide
/-- F16: the value check comes before the envelope. -/
theorem test_encSetCurrent_out_of_range :
    presents (exec (.encSetCurrent 0x4BA3D70B (some 5)) ready) = some (7, some (.error (.valueOutOfRange 0x4BA3D70B))) := by decide
theorem test_encSetBrake :
    presents (exec (.encSetBrake 0x40400000 none) ready) = some (0, some (.payload [0x07, 0x00, 0x00, 0x01, 0x2C])) := by decide
theorem test_encSetRpm :
    presents (exec (.encSetRpm (-1000) none) ready) = some (0, some (.payload [0x08, 0xFF, 0xFF, 0xFC, 0x18])) := by decide
theorem test_encSetDuty :
    presents (exec (.encSetDuty 0x3E800000 none) ready) = some (0, some (.payload [0x05, 0x00, 0x00, 0x00, 0xFA])) := by decide
/-- K17. -/
theorem test_fwdWrap_nests :
    presents (exec (.fwdWrap 0x05 [0x22, 0x05, 0x01, 0x04]) ready) =
      some (0, some (.payload [0x22, 0x05, 0x04, 0x22, 0x05, 0x01, 0x04])) := by decide
/-- K19. -/
theorem test_fwdWrap_too_long :
    presents (exec (.fwdWrap 0x01 (List.replicate 256 0x00)) ready) = some (1, some (.error (.encodingTooLarge 256))) := by decide
/-- F1, F3, F4, F5, F6, F10, F11, F14, F15. -/
theorem test_fx_corners :
    scaledInt 0x3E000000 100 = 13 ∧ scaledInt 0x3EC00000 100 = 38 ∧ scaledInt 0x3A03126F 1000 = 1 ∧
    scaledInt 0x3A030C39 1000 = 0 ∧ scaledInt 0x3BA3D70A 100 = 0 ∧ fx 0x80000000 100 = some [0, 0, 0, 0] ∧
    fx 0x4BA3D70A 100 = some [0x7F, 0xFF, 0xFF, 0xD0] ∧ fx 0x7FC00000 100 = none ∧ fx 0x7F800000 100 = none := by decide

/-! ## The telemetry decoder: 95_test_vectors.md section 6 -/

/-- T6: bytes past the minimum are ignored. -/
theorem test_decTelemetry_fixture :
    (after (exec (.decTelemetry (fixturePayload ++ [0xAA])) ready)).map (fun t => (t.telem, t.tvalid, t.status)) =
      some (some fixture, true, 0) := by decide
/-- T7: the identifier is checked before the length. -/
theorem test_decTelemetry_wrong_id :
    presents (exec (.decTelemetry [0x05]) ready) = some (8, some (.error (.unexpectedResponse 0x05))) := by decide
theorem test_decScanReply_keeps_duplicates :
    presents (exec (.decScanReply [0x3E, 0x07, 0x07]) ready) = some (0, some (.addrs [0x07, 0x07])) := by decide
theorem test_decScanReply_empty : presents (exec (.decScanReply []) ready) = some (5, some (.error (.shortPayload 0))) := by decide
theorem test_readTelemetry_absent : presents (exec .readTelemetry ready) = some (0, some (.record none)) := by decide
theorem test_readTelemetry_present :
    presents (exec .readTelemetry { ready with telem := some fixture, tvalid := true }) =
      some (0, some (.record (some fixture))) := by decide
theorem test_float_view :
    rne32 1234 100 = 0x414570A4 ∧ rne32 12345 10000 = 0x3F9E0419 ∧ rne32 0 10000 = 0 ∧ rne32 (-250) 100 = 0xC0200000 ∧
    rne32 (-50) 1000 = 0xBD4CCCCD ∧ rne32 32767 10 = 0x454CCB33 ∧ rne32 7 10000 = 0x3A378034 ∧
    telemNumber fixture .rpm = .int 1500 := by decide

/-! ## Composites: 45_host_operations.md examples, 95_test_vectors.md section 7 -/

theorem test_requestTelemetry_sends :
    sends (exec (.requestTelemetry (some 1)) ready) =
      some (0, [0x02, 0x04, 0x22, 0x01, 0x01, 0x04, 0x9E, 0xA3, 0x03]) := by decide
/-- P3 line 3: the deadline is the clock after the write, plus 100. -/
theorem test_requestTelemetry_deadline :
    (after (step { ready with clock := 500, activity := .sent .requestTelemetry })).map
      (fun t => (t.deadline, t.rxst)) = some (600, .seekStart) := by decide
theorem test_scanForControllers_sends :
    sends (exec .scanForControllers ready) = some (0, [0x02, 0x01, 0x3E, 0xD7, 0x9D, 0x03]) := by decide
theorem test_sendCurrent :
    sends (exec (.sendCurrent 0x41480000 (some 5)) ready) =
      some (0, [0x02, 0x08, 0x22, 0x05, 0x05, 0x06, 0x00, 0x00, 0x04, 0xE2, 0x12, 0x45, 0x03]) := by decide
theorem test_sendBrakeCurrent :
    sends (exec (.sendBrakeCurrent 0x40400000 none) ready) =
      some (0, [0x02, 0x05, 0x07, 0x00, 0x00, 0x01, 0x2C, 0xB1, 0x0B, 0x03]) := by decide
theorem test_sendRpm :
    sends (exec (.sendRpm (-1000) none) ready) =
      some (0, [0x02, 0x05, 0x08, 0xFF, 0xFF, 0xFC, 0x18, 0x43, 0x78, 0x03]) := by decide
theorem test_sendDuty :
    sends (exec (.sendDuty 0x3E800000 none) ready) =
      some (0, [0x02, 0x05, 0x05, 0x00, 0x00, 0x00, 0xFA, 0x6D, 0x02, 0x03]) := by decide
theorem test_sendJoystick :
    sends (exec (.sendJoystick (-1) 127 true false none) ready) =
      some (0, [0x02, 0x0B, 0x23, 0xFF, 0x7F, 0x01, 0x00, 0x00, 0x00, 0x00, 0x00, 0x00, 0x00, 0xCB, 0xD8, 0x03]) := by decide
theorem test_runOpenloop :
    sends (exec (.runOpenloop 0x40A00000 3000 none) ready) =
      some (0, [0x02, 0x09, 0xF0, 0x00, 0x00, 0x01, 0xF4, 0x00, 0x00, 0x0B, 0xB8, 0x1D, 0xB0, 0x03]) := by decide
theorem test_stop : presents (exec (.stop none) ready) = some (0, some (.count 6)) := by decide
/-- P1 line 13. -/
theorem test_illegal :
    presents (exec (.illegal 0x07) ready) = some (9, some (.error (.illegalOperation 0x07))) := by decide

/-! ## Wire units: the frames of 95_test_vectors.md section 5 arrive -/

theorem test_frames_arrive :
    queues (exec (.frameShort [0x03]) ready) = some [0x02, 0x01, 0x03, 0x30, 0x63, 0x03] ∧
    queues (exec (.frameLong (List.replicate 256 0x00)) ready) =
      some ([0x03, 0x01, 0x00] ++ List.replicate 256 0x00 ++ [0x00, 0x00, 0x03]) := ⟨by decide, rfl⟩
theorem test_payloads_arrive :
    queues (exec .payloadGetValues ready) = some [0x02, 0x01, 0x04, 0x40, 0x84, 0x03] ∧
    queues (exec (.payloadSetDuty 250) ready) = some [0x02, 0x05, 0x05, 0x00, 0x00, 0x00, 0xFA, 0x6D, 0x02, 0x03] ∧
    queues (exec (.payloadSetCurrent 1250) ready) = some [0x02, 0x05, 0x06, 0x00, 0x00, 0x04, 0xE2, 0xDC, 0x2D, 0x03] ∧
    queues (exec (.payloadSetCurrentBrake 300) ready) =
      some [0x02, 0x05, 0x07, 0x00, 0x00, 0x01, 0x2C, 0xB1, 0x0B, 0x03] ∧
    queues (exec (.payloadSetRpm (-1000)) ready) = some [0x02, 0x05, 0x08, 0xFF, 0xFF, 0xFC, 0x18, 0x43, 0x78, 0x03] ∧
    queues (exec (.payloadForward 0x01 [0x04]) ready) = some [0x02, 0x04, 0x22, 0x01, 0x01, 0x04, 0x9E, 0xA3, 0x03] ∧
    queues (exec (.payloadSetChuckData 0xFF 0x7F true false) ready) =
      some [0x02, 0x0B, 0x23, 0xFF, 0x7F, 0x01, 0x00, 0x00, 0x00, 0x00, 0x00, 0x00, 0x00, 0xCB, 0xD8, 0x03] ∧
    queues (exec .payloadPingCan ready) = some [0x02, 0x01, 0x3E, 0xD7, 0x9D, 0x03] ∧
    queues (exec (.payloadOpenloop 500 3000) ready) =
      some [0x02, 0x09, 0xF0, 0x00, 0x00, 0x01, 0xF4, 0x00, 0x00, 0x0B, 0xB8, 0x1D, 0xB0, 0x03] ∧
    queues (exec .payloadStop ready) = some [0x02, 0x01, 0xF1, 0xFF, 0x3E, 0x03] := by decide
theorem test_replies_arrive :
    queues (exec (.replyTelemetry fixture) ready) = some ([0x02, 0x21] ++ fixturePayload ++ [0x15, 0x35, 0x03]) ∧
    queues (exec (.replyScan [0x01, 0x05]) ready) = some [0x02, 0x03, 0x3E, 0x01, 0x05, 0xBD, 0x30, 0x03] := by decide

/-! ## The textual syntax: 30_encoding.md R73, its example -/

theorem test_hostText : hostText (.sendCurrent 0x41480000 (some 5)) = some "SEND_CURRENT 12.5, @5".toList := by decide

/-! ## Witnesses: a state and operands that meet the hypotheses of each obligation, at the boundaries of its clauses -/

/-- A schedule on the state after reset. -/
def due (l : List Event) : State := { State.reset with schedule := l }

theorem witness_StepRunsPresentedUnit :
    let s := due [.present .host [0x02, 0x31], .blockStep]
    s.params.valid = true ∧ s.schedule = .present .host [0x02, 0x31] :: [.blockStep] ∧
    (Channel.host = .host → s.activity = .idle) ∧ decode s.params .host [0x02, 0x31] = some (.crcByte 0x31, []) := by
  decide
/-- A wire unit needs no free port: it arrives during a receive. -/
theorem witness_StepRunsPresentedUnit_busy :
    let s := { receiving .seekStart [] with schedule := [.present .reply [0x3E]] }
    s.params.valid = true ∧ s.schedule = .present .reply [0x3E] :: [] ∧
    (Channel.reply = .host → s.activity = .idle) ∧ decode s.params .reply [0x3E] = some (.replyScan [], []) := by decide

theorem witness_StepPerformsOtherActs :
    (due [.arrive [0x02]]).params.valid = true ∧ (due [.arrive [0x02]]).schedule = .arrive [0x02] :: [] ∧
    (due [.advance 0]).schedule = .advance 0 :: [] ∧ (due [.blockStep]).schedule = .blockStep :: [] ∧
    { receiving .seekStart [] with schedule := [.present .host [0x01]] }.schedule = .present .host [0x01] :: [] ∧
    (receiving .seekStart []).activity ≠ .idle ∧ State.reset.schedule = [] ∧ State.reset.activity = .idle := by decide

theorem witness_IllegalInstantiationsAreRefused :
    (withParams ready { Params.pRef with markerB := 0x02 }).params.valid = false ∧
    (withParams ready { Params.pRef with rxMaxPayload := 0 }).params.valid = false ∧
    (withParams ready { Params.pRef with rxMaxPayload := 65536 }).params.valid = false ∧
    (withParams ready { Params.pRef with dutyScale := 0 }).params.valid = false ∧
    (withParams ready { Params.pRef with idForward := 0xF1 }).params.valid = false ∧
    (withParams ready { Params.pRef with layout := { Layout.contiguous with rpm := 10 } }).params.valid = false ∧
    Params.pRef.valid = true := by decide

theorem witness_HostDecodeInvertsEncode :
    (Instr.crcCheck [0x04] 0x4084).wellFormed = true ∧ (Instr.crcCheck [0x04] 0x4084).channel = .host := by decide
theorem witness_FrameDecodeInvertsEncode :
    Params.pRef.valid = true ∧ (Instr.frameShort []).wellFormed = true ∧ (Instr.frameShort []).channel = .frame ∧
    (Instr.frameLong (List.replicate 65535 0)).wellFormed = true ∧
    (Instr.frameLong (List.replicate 65535 0)).channel = .frame :=
  ⟨by decide, by decide, by decide, test_long_frame_256_to_65535.2.2.2, rfl⟩
theorem witness_PayloadDecodeInvertsEncode :
    Params.pRef.valid = true ∧ Params.pRef.idsDistinct = true ∧
    (Instr.payloadForward 1 (List.replicate 255 0)).wellFormed = true ∧
    (Instr.payloadForward 1 (List.replicate 255 0)).channel = .payload ∧
    (Instr.replyTelemetry fixture).wellFormed = true ∧ (Instr.replyTelemetry fixture).channel = .reply ∧
    { Params.pRef with layout := .vescGapped }.valid = true := by decide

/-- The clauses of UnlistedCodesAreIllegal at the ends of R72's ranges: the codes inside decode as illegal, those beside
them as their operations. -/
theorem witness_UnlistedCodesAreIllegal :
    (∀ op ∈ ([0x00, 0x05, 0x0F, 0x12, 0x1F, 0x22, 0x2F, 0x39, 0x3E, 0x43, 0x4F, 0x59, 0xFF] : List Byte),
      decode .pRef .host [op, 0x77] = some (.illegal op, [0x77])) ∧
    decode .pRef .host [0x3F, 0x00, 0x00] = some (.fwdWrap 0x00 [], []) ∧
    decode .pRef .host [0x58, 0x00] = some (.stop none, []) ∧ ready.activity = .idle := by decide

theorem witness_ResetEventKeepsTheTransport :
    let s := { midFrame [0x40] with schedule := [.reset, .blockStep], crc := 0x1234, telem := some fixture, tvalid := true }
    s.params.valid = true ∧ s.schedule = .reset :: [.blockStep] := by decide

/-- 20_memory.md R50 (d), 70_reset_and_hazards.md R311: a reset leaves the stream, of which nothing has been sent since. -/
theorem test_reset_counts_sent_bytes_anew :
    (after (step { due [.reset] with txStream := [0x02, 0x00] })).map (fun t => (t.txStream, sentSinceReset t)) =
      some ([0x02, 0x00], []) := by decide

theorem midFrame_empty_inv : (midFrame []).Inv where
  legal_parameters := by show Params.pRef.valid = true; decide
  status_legal := by decide
  rxbuf_canonical := by decide
  txbuf_canonical := by decide
  rxbuf_inside := by unfold insideBelow; decide
  txbuf_inside := by intro c h; cases h
  txlen_bound := by decide
  txcount_bound := by decide
  txbuf_written := by intro i h; exact absurd h (Nat.not_lt_zero i)
  mark_inside := by decide
  record_present := by decide
  busy_transport := by decide
  receiver_running := ⟨fun _ => ⟨_, rfl⟩, fun _ => by decide⟩
  never_done := by decide
  length_due := by decide
  bytes_due := fun _ => ⟨by decide, by decide, by unfold writtenBelow; decide⟩
theorem midFrame_inv (q : List Byte) : (midFrame q).Inv := { midFrame_empty_inv with }

theorem atStop_empty_inv : (atStop []).Inv where
  legal_parameters := by show Params.pRef.valid = true; decide
  status_legal := by decide
  rxbuf_canonical := by decide
  txbuf_canonical := by decide
  rxbuf_inside := by unfold insideBelow; decide
  txbuf_inside := by intro c h; cases h
  txlen_bound := by decide
  txcount_bound := by decide
  txbuf_written := by intro i h; exact absurd h (Nat.not_lt_zero i)
  mark_inside := by decide
  record_present := by decide
  busy_transport := by decide
  receiver_running := ⟨fun _ => ⟨_, rfl⟩, fun _ => by decide⟩
  never_done := by decide
  length_due := by decide
  bytes_due := fun _ => ⟨by decide, by decide, by unfold writtenBelow; decide⟩
theorem atStop_inv (q : List Byte) : (atStop q).Inv := { atStop_empty_inv with }

/-- Also of ParametersStayAndClockAdvances, TransmitStreamOnlyGrows, ReceiveQueueIsFifo, DeadlineIsNeverExtended,
NoFaultUnderInvariant and ReceiverStepEndsWaitsOrConsumes. -/
theorem witness_EveryStepKeepsInvariant :
    (midFrame [0x40]).Inv ∧ (midFrame [0x40]).activity = .receiving .rxReceive ∧
    ∃ t, step (midFrame [0x40]) = .next t ∧ t.rxcnt = 2 := ⟨midFrame_inv _, rfl, _, rfl, rfl⟩

/-- The fixture's reply but for its stop byte, as a request has assembled it. -/
def assembledReply : State :=
  { State.reset with
    deadline := 1000, rxst := .accumulate, rxneed := 1, rxlencnt := 1, rxlen := 33, rxcnt := 35
    rxbuf := memWriteAll [] 0 (fixturePayload ++ [0x15, 0x35]), activity := .receiving .requestTelemetry, rxQueue := [0x03] }

/-- A step of each of the three kinds changes the record. -/
theorem witness_TelemetryChangesOnlyByDecodeOrReset :
    (∃ t, step (due [.present .host (0x40 :: 33 :: fixturePayload)]) = .next t ∧ t.telem ≠ State.reset.telem) ∧
    (∃ t, step { due [.reset] with telem := some fixture, tvalid := true } = .next t ∧ t.telem ≠ some fixture) ∧
    (∃ t, step assembledReply = .next t ∧ t.telem ≠ assembledReply.telem) :=
  ⟨⟨_, rfl, by decide⟩, ⟨_, rfl, by decide⟩, ⟨_, rfl, by decide⟩⟩

theorem witness_CrcIsLinear : ([0x31, 0x32] : List Byte).length = ([0xFF, 0x00] : List Byte).length := by decide
theorem witness_SingleBitErrorDetected : 0 < ([0x04] : List Byte).length ∧ 7 < 8 ∧ 15 < 16 := by decide

theorem witness_FrameBytesByIndex :
    (List.replicate 255 (0 : Byte)).length < 256 ∧ 256 ≤ (List.replicate 256 (0 : Byte)).length ∧
    (List.replicate 65535 (0 : Byte)).length ≤ 65535 ∧ 254 < (List.replicate 255 (0 : Byte)).length := by
  simp only [List.length_replicate]; decide
theorem witness_FramesAreSelfDelimiting :
    Params.pRef.valid = true ∧ ([0x04] : List Byte).length ≤ 65535 ∧
    frame .pRef [0x04] ++ [0x77] = frame .pRef [0x04] ++ [0x77] := by decide
theorem witness_FrameBuildCompletes :
    65535 < (List.replicate 65536 (0 : Byte)).length ∧ (List.replicate 65535 (0 : Byte)).length ≤ 65535 := by
  simp only [List.length_replicate]; decide
/-- The longest frame is one byte longer than the buffer of R29; R121 stores that byte too. -/
theorem test_longest_frame_is_stored_whole (f : List Byte) (h : f.length = 65541) :
    txbufRead (txbufStore f State.reset) 65540 = f[65540]? ∧ txbufRead (txbufStore f State.reset) 65539 = f[65539]? ∧
    txbufRead (txbufStore f State.reset) 65541 = none := by
  have hf : f.length ≤ txbufCapacity + 1 := by rw [h]; decide
  simp only [txbufRead_txbufStore hf, h]
  exact ⟨if_pos (by decide), if_pos (by decide), rfl⟩
theorem witness_FrameSendCompletes :
    { ready with transportPresent := false }.transportPresent = false ∧ ready.transportPresent = true ∧
    65535 < (List.replicate 65536 (0 : Byte)).length ∧ (List.replicate 65535 (0 : Byte)).length ≤ 65535 ∧
    ready.sinkAnswers = 65541 :: [] := by
  simp only [List.length_replicate]; decide

theorem witness_RxReceiveStarts :
    { ready with transportPresent := false }.transportPresent = false ∧ ready.transportPresent = true := by decide
theorem witness_ExpiryComesFirst :
    let s := fun st c => { receiving st [] with clock := c }
    (s .seekStart 1000).activity = .receiving .rxReceive ∧ (s .readLength 1000).rxst = .readLength ∧
    (s .accumulate 1000).deadline ≤ (s .accumulate 1000).clock ∧
    (s .seekStart 999).clock < (s .seekStart 999).deadline ∧ (s .seekStart 999).rxQueue = [] := by decide
theorem witness_SeekStartConsumes :
    (receiving .seekStart [0x02]).activity = .receiving .rxReceive ∧ (receiving .seekStart [0x02]).rxst = .seekStart ∧
    { receiving .seekStart [0x02] with clock := 999 }.clock < (receiving .seekStart [0x02]).deadline ∧
    (receiving .seekStart [0x02]).rxQueue = 0x02 :: [] ∧ (receiving .seekStart [0x03]).rxQueue = 0x03 :: [] ∧
    (receiving .seekStart [0x55]).rxQueue = 0x55 :: [] := by decide
/-- The three clauses: a byte still due; the last byte of 65535 at that limit; the last byte of 256 above the limit 255
(V16). -/
theorem witness_ReadLengthConsumes :
    let s1 := { lengthDue with rxQueue := [0xFF] }
    let s2 := { lengthDue with rxQueue := [0xFF], rxlencnt := 1, rxlen := 0x00FF }
    let s3 := withParams { lengthDue with rxQueue := [0x00], rxlencnt := 1, rxlen := 0x0001 }
      { Params.pRef with rxMaxPayload := 255 }
    s1.activity = .receiving .rxReceive ∧ s1.rxst = .readLength ∧ s1.clock < s1.deadline ∧ s1.rxQueue = 0xFF :: [] ∧
    s1.rxlencnt + 1 ≠ s1.rxneed ∧
    s2.rxlencnt + 1 = s2.rxneed ∧ (s2.rxlen.toNat * 256 + 0xFF) % 65536 ≤ s2.params.rxMaxPayload ∧
    s3.rxlencnt + 1 = s3.rxneed ∧ s3.params.rxMaxPayload < (s3.rxlen.toNat * 256 + 0x00) % 65536 := by decide
theorem witness_AccumulateConsumes :
    (midFrame [0x40]).Inv ∧ (midFrame [0x40]).rxst = .accumulate ∧ (midFrame [0x40]).clock < (midFrame [0x40]).deadline ∧
    (midFrame [0x40]).rxcnt.toNat + 1 ≠ (midFrame [0x40]).rxlen.toNat + 3 ∧
    (atStop [0x04]).Inv ∧ (atStop [0x04]).rxQueue = 0x04 :: [] ∧
    (atStop [0x04]).rxcnt.toNat + 1 = (atStop [0x04]).rxlen.toNat + 3 ∧ (0x04 : Byte) ≠ (atStop [0x04]).params.markerStop ∧
    (atStop [0x03]).Inv ∧ (atStop [0x03]).rxQueue = 0x03 :: [] ∧ (0x03 : Byte) = (atStop [0x03]).params.markerStop :=
  ⟨midFrame_inv _, by decide, by decide, by decide, atStop_inv _, by decide, by decide, by decide, atStop_inv _, by decide,
   by decide⟩

/-- V1, with the clock one unit before the deadline and no act left. -/
theorem witness_ReceiveReturnsTheFirstFrame :
    let s := { ready with rxQueue := [0x55, 0xAA, 0x02, 0x01, 0x04, 0x40, 0x84, 0x03, 0x77], clock := 999 }
    s.params.valid = true ∧ s.transportPresent = true ∧ s.schedule = [] ++ [] ∧ receiverActs [] ∧ blockGoesOn [] ∧
    blockStepsIn [] + 8 = ([0x55, 0xAA] : List Byte).length + (frame s.params [0x04]).length ∧
    s.clock + advancedIn [] < 1000 ∧ ([0x04] : List Byte).length ≤ s.params.rxMaxPayload ∧
    SeeksThrough s.params [0x55, 0xAA] ∧ s.rxQueue = [0x55, 0xAA] ++ frame s.params [0x04] ++ [0x77] :=
  ⟨by decide, by decide, by decide, receiverActs_nil, .inl rfl, by decide, by decide, by decide,
   seeksThrough_of_noMarker (by unfold noMarker; decide), by decide⟩

/-- A false candidate of each kind, a start marker among its bytes, that ends before the frame. -/
theorem falseCandidates_seekThrough :
    SeeksThrough .pRef [0x02, 0x01, 0xAA, 0x02, 0x03, 0x00, 0x03, 0x00, 0x00, 0x55, 0x55, 0x04] :=
  .shortCandidate 0x01 0x00 [0xAA, 0x02, 0x03] _ (by decide) (by decide) (by decide)
    (.longCandidate 0x00 0x00 0x04 [0x55, 0x55] [] (by decide) (by decide) (by decide) .done)

/-- Acts of each kind between the steps; an operation waits at the port for the last three. -/
theorem witness_ReceiveReturnsTheFirstFrame_acts :
    let g : List Byte := [0x02, 0x01, 0xAA, 0x02, 0x03, 0x00, 0x03, 0x00, 0x00, 0x55, 0x55, 0x04]
    let acts : List Event := [.advance 3, .arrive [0x77]] ++ List.replicate 15 .blockStep ++ [.advance 6]
    let s := { ready with rxQueue := g ++ [0x02, 0x01, 0x04, 0x40, 0x84, 0x03], schedule := acts ++ [Event.present .host [0x01]] }
    s.params.valid = true ∧ s.transportPresent = true ∧ s.schedule = acts ++ [Event.present .host [0x01]] ∧
    receiverActs acts ∧ blockGoesOn [.present .host [0x01]] ∧
    blockStepsIn acts + 3 = g.length + (frame s.params [0x04]).length ∧ s.clock + advancedIn acts < 10 ∧
    ([0x04] : List Byte).length ≤ s.params.rxMaxPayload ∧ SeeksThrough s.params g ∧
    s.rxQueue = g ++ frame s.params [0x04] ++ [] :=
  ⟨by decide, by decide, by decide, by simp [receiverActs], .inr ⟨_, _, rfl⟩, by decide, by decide, by decide,
   falseCandidates_seekThrough, by decide⟩

/-- A receive with the deadline 1 and an empty queue, the clock advanced once between every two block steps. -/
def tickingRun : Nat → State
  | 0 => { receiving .seekStart [] with deadline := 1 }
  | 1 => { receiving .seekStart [] with deadline := 1, clock := 1 }
  | n + 2 => { endedWith 2 .timeout { State.reset with deadline := 1 } with clock := (n + 3) / 2 }

def tickingEnv (n : Nat) : Event := if n % 2 = 0 then .advance 1 else .blockStep

theorem tickingRun_clock (n : Nat) : (tickingRun n).clock = (n + 1) / 2 := by
  match n with
  | 0 | 1 | n + 2 => rfl

theorem tickingEnv_steps : BlockStepsForever tickingEnv tickingRun := fun n =>
  ⟨2 * n + 1, by omega, .inl (by simp [tickingEnv, Nat.add_mod])⟩

theorem tickingRun_open : OpenRun tickingEnv tickingRun := by
  intro n
  match n with
  | 0 => rfl
  | 1 => rfl
  | n + 2 =>
    rcases Nat.mod_two_eq_zero_or_one n with h | h
    · have he : tickingEnv (n + 2) = .advance 1 := by simp [tickingEnv, h]
      have hc : (n + 3) / 2 + 1 = (n + 1 + 3) / 2 := by omega
      rw [he]
      show Host.Outcome.next _ = Host.Outcome.next _
      simp only [tickingRun, ← hc]
      rfl
    · have he : tickingEnv (n + 2) = .blockStep := by simp [tickingEnv, h]
      have hc : (n + 3) / 2 = (n + 1 + 3) / 2 := by omega
      rw [he]
      show Host.Outcome.next _ = Host.Outcome.next _
      simp only [tickingRun, ← hc]
      rfl

theorem witness_ReceiveEndsUnderFairClock :
    OpenRun tickingEnv tickingRun ∧ FairClock tickingEnv tickingRun ∧ BlockStepsForever tickingEnv tickingRun ∧
    (tickingRun 0).activity ≠ .idle :=
  ⟨tickingRun_open,
   { monotonic := fun m n h => by rw [tickingRun_clock, tickingRun_clock]; omega
     unbounded := fun _ d => ⟨2 * d, by rw [tickingRun_clock]; omega⟩ },
   tickingEnv_steps, by decide⟩

/-- V5, and a byte that arrives after a step has waited; a marker arrives when the deadline is past. -/
theorem witness_NoMarkerEndsInTimeout :
    let acts : List Event := [.blockStep, .advance 400, .blockStep, .blockStep, .blockStep, .arrive [0x44], .advance 600,
      .arrive [0x02]]
    let s := { due (acts ++ [.blockStep, .reset]) with rxQueue := [0x11, 0x22, 0x33] }
    s.params.valid = true ∧ s.transportPresent = true ∧ s.schedule = acts ++ [.blockStep, .reset] ∧ receiverActs acts ∧
    ([.blockStep, .reset] : List Event) = .blockStep :: [.reset] ∧
    noMarker s.params (s.rxQueue ++ arrivedBefore 1000 s.clock acts) ∧ 1000 ≤ s.clock + advancedIn acts ∧
    searchLeaves 1000 s.clock s.rxQueue acts = [0x44, 0x02] :=
  ⟨by decide, by decide, by decide, by simp [receiverActs], by decide, by unfold noMarker; decide, by decide, by decide⟩
/-- With no act left, and the deadline past at the start. -/
theorem witness_NoMarkerEndsInTimeout_alone :
    let s := { due [] with clock := 1000 }
    s.schedule = [] ++ [] ∧ noMarker s.params (s.rxQueue ++ arrivedBefore 1000 s.clock []) ∧ 1000 ≤ s.clock + advancedIn [] :=
  ⟨by decide, by unfold noMarker; decide, by decide⟩
theorem witness_RxValidateCompletes : crc16 [0x04] = 0x4084 ∧ crc16 [0x04] ≠ 0x4085 := by decide

/-- A tie, 0.125 at scale 100 (F1): twice the distance is `2^149` exactly. -/
theorem witness_ScalingRoundsToNearestAwayFromZero :
    0 < 100 ∧ 2 * |scaledInt 0x3E000000 100 * 2 ^ 149 - real149 0x3E000000 * 100| = 2 ^ 149 := by decide
/-- At scale 1: `-2^31` is the least value that fits, `2^31` the least above the range; an infinity is not finite. -/
theorem witness_ScaledCommandsComplete :
    finite 0x7F800000 = false ∧
    finite 0xCF000000 = true ∧ -(2 ^ 31) ≤ scaledInt 0xCF000000 1 ∧ scaledInt 0xCF000000 1 ≤ 2 ^ 31 - 1 ∧
    2 ^ 31 - 1 < scaledInt 0x4F000000 1 ∧ scaledInt 0xCF000001 1 < -(2 ^ 31) ∧
    Params.pRef.currentScale = 100 ∧ { Params.pRef with currentScale := 1 }.valid = true := by decide
theorem witness_JoystickCompletes :
    5 + { Params.pRef with joyPadBytes := 250 }.joyPadBytes ≤ 255 ∧
    255 < 5 + { Params.pRef with joyPadBytes := 251 }.joyPadBytes := by decide
theorem witness_FwdWrapCompletes :
    (List.replicate 255 (0 : Byte)).length ≤ 255 ∧ 255 < (List.replicate 256 (0 : Byte)).length := by
  simp only [List.length_replicate]; decide
theorem witness_EnvelopeCarriesTheLocalPayload :
    ∃ t, exec (.encStop (some 0)) ready = .next t ∧ t.result = some (.payload [0x22, 0x00, 0x01, 0xF1]) := ⟨_, rfl, by decide⟩

theorem witness_DecTelemetryCompletes :
    fixturePayload = 0x04 :: fixturePayload.tail ∧ ready.params.checkResponseId = true ∧
    (0x05 : Byte) ≠ ready.params.idGetValues ∧ (0x04 : Byte) = ready.params.idGetValues ∧
    (fixturePayload.take 32).length < ready.params.layout.minLen ∧ ready.params.layout.minLen ≤ fixturePayload.length := by
  decide
theorem witness_DecScanReplyCompletes :
    ready.params.checkResponseId = true ∧ (0x04 : Byte) ≠ ready.params.idPingCan ∧ (0x3E : Byte) = ready.params.idPingCan ∧
    (withParams ready { Params.pRef with checkResponseId := false }).params.checkResponseId ≠ true := by decide
theorem witness_ReadTelemetryCompletes :
    let s := { ready with telem := some fixture, tvalid := true }
    let u := { ready with tvalid := true }
    ready.tvalid = false ∧ s.tvalid = true ∧ s.telem = some fixture ∧ u.tvalid = true ∧ u.telem = none := by decide
theorem witness_FloatViewIsCorrectlyRounded :
    TelemField.rpm.scale = 1 ∧ TelemField.dutyCycleNow.scale ≠ 1 ∧ finite 0x7F7FFFFF = true := by decide

/-- An addressed joystick with 251 pads raises; a local one with 65531 pads is too long a payload for a frame, with 65530
it fits. -/
theorem witness_SendCommandsComplete :
    { ready with transportPresent := false }.transportPresent = false ∧ ready.transportPresent = true ∧
    exec (.encSetCurrent 0x7F800000 none) ready = .next (endedWith 7 (.valueOutOfRange 0x7F800000) ready) ∧
    exec (.encStop none) ready = .next (ended 0 (.payload [0xF1]) ready) ∧ ([0xF1] : List Byte).length ≤ 65535 ∧
    65535 < 5 + { Params.pRef with joyPadBytes := 65531 }.joyPadBytes ∧
    5 + { Params.pRef with joyPadBytes := 65530 }.joyPadBytes ≤ 65535 :=
  ⟨by decide, by decide, rfl, rfl, by decide, by decide, by decide⟩
theorem witness_SendCommandsInRangeComplete :
    ready.transportPresent = true ∧ finite 0x41480000 = true ∧
    -(2 ^ 31) ≤ scaledInt 0x41480000 ready.params.dutyScale ∧ scaledInt 0x41480000 ready.params.dutyScale ≤ 2 ^ 31 - 1 ∧
    -(2 ^ 31) ≤ scaledInt 0x41480000 ready.params.currentScale ∧
    scaledInt 0x4BA3D70A ready.params.currentScale ≤ 2 ^ 31 - 1 ∧
    5 + { Params.pRef with joyPadBytes := 250 }.joyPadBytes ≤ 255 := by decide
theorem witness_AbsentTransportIsReportedFirst :
    { ready with transportPresent := false }.transportPresent = false ∧
    ∃ p, Instr.frameSend (List.replicate 65536 0) = .frameSend p := ⟨by decide, _, rfl⟩
theorem witness_RequestsSendTheirFrame : ready.transportPresent = true := by decide
theorem witness_DeadlineIsReadAfterTheWrite :
    let s := { ready with activity := .sent .scanForControllers }
    s.transportPresent = true ∧ s.activity = .sent .scanForControllers := by decide
theorem witness_RequestEndsOnItsFirstFrame :
    crc16 [0x04] ≠ 0x4085 ∧ crc16 fixturePayload = 0x1535 ∧ telemetryOf .pRef fixturePayload = .ok fixture ∧
    crc16 [0x04] = 0x4084 ∧ telemetryOf .pRef [0x04] = .error (.shortPayload 1) ∧
    scanReplyOf .pRef [0x3E, 0x01] = .ok [0x01] ∧ scanReplyOf .pRef [0x04] = .error (.unexpectedResponse 0x04) :=
  ⟨by decide, by decide, rfl, by decide, rfl, rfl, rfl⟩
/-- P3 line 1: an advance before the deadline is read, an arrival among the steps over the queue. -/
theorem witness_TelemetryRequestCompletes :
    let acts : List Event := [.blockStep, .arrive [0x01], .advance 99]
    let s := { due (.present .host [0x50, 0x00] :: ([.advance 7] ++ .blockStep :: (acts ++ []))) with
      rxQueue := [0x55, 0xAA] ++ ([0x02, 0x21] ++ fixturePayload ++ [0x15, 0x35, 0x03]) ++ [0xFF] }
    s.params.valid = true ∧ s.transportPresent = true ∧ s.activity = .idle ∧
    s.schedule = .present .host (encode s.params (.requestTelemetry none)) :: ([.advance 7] ++ .blockStep :: (acts ++ [])) ∧
    receiverActs [.advance 7] ∧ blockStepsIn [.advance 7] = 0 ∧ receiverActs acts ∧ blockGoesOn [] ∧
    blockStepsIn acts + 39 = ([0x55, 0xAA] : List Byte).length + (frame s.params fixturePayload).length ∧
    advancedIn acts < s.params.rxTimeout ∧ fixturePayload.length ≤ s.params.rxMaxPayload ∧
    telemetryOf s.params fixturePayload = .ok fixture ∧ SeeksThrough s.params [0x55, 0xAA] ∧
    s.rxQueue ++ arrivedIn [.advance 7] = [0x55, 0xAA] ++ frame s.params fixturePayload ++ [0xFF] :=
  ⟨by decide, by decide, by decide, by decide, by simp [receiverActs], by decide, by simp [receiverActs], .inl rfl, by decide,
   by decide, by decide, rfl, seeksThrough_of_noMarker (by unfold noMarker; decide), by decide⟩
/-- The same reply, with no act after the request. -/
theorem witness_TelemetryRequestCompletes_alone :
    let s := { due (.present .host [0x50, 0x00] :: ([] ++ [])) with
      rxQueue := [0x02, 0x21] ++ fixturePayload ++ [0x15, 0x35, 0x03] }
    s.schedule = .present .host (encode s.params (.requestTelemetry none)) :: ([] ++ []) ∧ blockGoesOn [] ∧
    blockStepsIn [] + 38 = ([] : List Byte).length + (frame s.params fixturePayload).length ∧
    advancedIn [] < s.params.rxTimeout ∧ s.rxQueue ++ arrivedIn [] = [] ++ frame s.params fixturePayload ++ [] :=
  ⟨by decide, .inl rfl, by decide, by decide, by decide⟩
/-- P5 line 1: the reply arrives after the scan is sent. -/
theorem witness_ScanCompletes :
    let pre : List Event := [.arrive [0x02, 0x03, 0x3E, 0x01, 0x05, 0xBD, 0x30, 0x03]]
    let s := due (.present .host [0x51] :: (pre ++ []))
    s.params.valid = true ∧ s.transportPresent = true ∧ s.activity = .idle ∧
    s.schedule = .present .host [0x51] :: (pre ++ []) ∧ receiverActs pre ∧ blockStepsIn pre = 0 ∧ receiverActs [] ∧
    blockGoesOn [] ∧
    blockStepsIn [] + 8 = ([] : List Byte).length + (frame s.params (s.params.idPingCan :: [0x01, 0x05])).length ∧
    advancedIn [] < s.params.rxTimeout ∧ ([0x01, 0x05] : List Byte).length + 1 ≤ s.params.rxMaxPayload ∧
    SeeksThrough s.params [] ∧
    s.rxQueue ++ arrivedIn pre = [] ++ frame s.params (s.params.idPingCan :: [0x01, 0x05]) ++ [] :=
  ⟨by decide, by decide, by decide, by decide, by simp [receiverActs], by decide, receiverActs_nil, .inl rfl, by decide,
   by decide, by decide, .done, by decide⟩
theorem witness_WireUnitsArrive :
    (List.replicate 65535 (0 : Byte)).length ≤ 65535 ∧
    (∃ p, Instr.frameLong (List.replicate 65535 0) = .frameLong p) ∧
    (∃ d, Instr.payloadSetDuty 250 = .payloadSetDuty d ∧
      ([0x05, 0x00, 0x00, 0x00, 0xFA] : List Byte) = ready.params.idSetDuty :: be32 d) ∧
    (∃ m, Instr.replyTelemetry fixture = .replyTelemetry m ∧
      fixturePayload = telemReply ready.params.idGetValues ready.params.layout m) :=
  ⟨by simp only [List.length_replicate]; decide, ⟨_, rfl⟩, ⟨_, rfl, by decide⟩, ⟨_, rfl, by decide⟩⟩

end Sys2Proof.Tests
end

section
/-! PROOFS. The parameter constraints of 00_scope.md R8: what `Params.valid` says, clause by clause. -/
namespace Sys2Proof

theorem TelemField.mem_all (f : TelemField) : f ∈ TelemField.all := by cases f <;> decide

theorem TelemField.bytes_pos (f : TelemField) : 0 < f.bytes := by cases f <;> decide

/-- Two non-empty byte ranges are disjoint exactly when one ends before the other begins. -/
theorem Layout.apart_iff (L : Layout) (f g : TelemField) :
    L.apart f g = true ↔ ∀ k l : Nat, k < f.bytes → l < g.bytes → L.offset f + k ≠ L.offset g + l := by
  simp only [Layout.apart, Bool.or_eq_true, decide_eq_true_eq]
  constructor
  · intro h k l hk hl
    omega
  · intro h
    by_contra hc
    have hf := f.bytes_pos
    have hg := g.bytes_pos
    -- the later of the two first bytes lies in both fields
    rcases Nat.le_total (L.offset f) (L.offset g) with hle | hle
    · exact h (L.offset g - L.offset f) 0 (by omega) hg (by omega)
    · exact h 0 (L.offset f - L.offset g) hf (by omega) (by omega)

theorem Layout.valid_iff (L : Layout) :
    L.valid = true ↔ (∀ f, 1 ≤ L.offset f) ∧ ∀ f g, f ≠ g → L.apart f g = true := by
  simp [Layout.valid, TelemField.mem_all, or_iff_not_imp_left]

theorem Params.innerIds_ne_idForward_iff (P : Params) :
    (P.innerIds.all fun i => i ≠ P.idForward) = true ↔
      P.idGetValues ≠ P.idForward ∧ P.idSetDuty ≠ P.idForward ∧ P.idSetCurrent ≠ P.idForward ∧
      P.idSetCurrentBrake ≠ P.idForward ∧ P.idSetRpm ≠ P.idForward ∧ P.idSetChuckData ≠ P.idForward ∧
      P.idOpenloop ≠ P.idForward ∧ P.idStop ≠ P.idForward := by
  simp [Params.innerIds]

end Sys2Proof

namespace Sys2Proof.Machine

theorem step_eq_refused {s : State} (h : s.params.valid = false) : step s = .refused .badInstantiation := by
  simp [step, h]

/-- Settles O3: each conjunct of `Params.valid` is one constraint of R8, the layout's by `Layout.valid_iff` and
`Layout.apart_iff`; `step` looks at `Params.valid` first. -/
theorem illegalInstantiationsAreRefused : Obligations.IllegalInstantiationsAreRefused := by
  unfold Obligations.IllegalInstantiationsAreRefused
  refine ⟨fun P => ?_, fun s => step_eq_refused⟩
  simp only [Params.valid, Bool.and_eq_true, decide_eq_true_eq, Params.innerIds_ne_idForward_iff,
    Layout.valid_iff, Layout.apart_iff, Nat.succ_le_iff, and_assoc]

end Sys2Proof.Machine
end

section
/-! PROOFS. The rounding of 00_scope.md R15. -/
namespace Sys2Proof.Machine

/-- The magnitude of `roundHalfAway n d` is the quotient of the division of `2 * |n| + d` by `2 * d`. -/
theorem natAbs_roundHalfAway (n : Int) (d : Nat) :
    (roundHalfAway n d).natAbs = (2 * n.natAbs + d) / (2 * d) := by
  simp only [roundHalfAway]
  split
  · rw [Int.natAbs_neg, Int.natAbs_natCast]
  · rw [Int.natAbs_natCast]

/-- Rounding keeps the sign, so the distance to the quotient is that of the magnitudes. -/
theorem abs_roundHalfAway_mul_sub (n : Int) (d : Nat) :
    |roundHalfAway n d * d - n| = |((roundHalfAway n d).natAbs * d : Int) - n.natAbs| := by
  rw [natAbs_roundHalfAway]
  simp only [roundHalfAway]
  split
  case isTrue hn =>
    have hneg : (n.natAbs : Int) = -n := by omega
    rw [hneg, ← abs_neg]
    congr 1
    ring
  case isFalse hn =>
    have hpos : (n.natAbs : Int) = n := by omega
    rw [hpos]

/-- The division with remainder behind the rounding: `2 * |n| + d = 2 * (a * d) + r` with `r < 2 * d`. -/
theorem natAbs_roundHalfAway_mul {d : Nat} (n : Int) (hd : 0 < d) :
    ∃ r, r < 2 * d ∧ 2 * n.natAbs + d = 2 * ((roundHalfAway n d).natAbs * d) + r := by
  refine ⟨(2 * n.natAbs + d) % (2 * d), Nat.mod_lt _ (by omega), ?_⟩
  rw [natAbs_roundHalfAway]
  have hdiv := Nat.div_add_mod (2 * n.natAbs + d) (2 * d)
  linarith

theorem roundHalfAway_dist_le {d : Nat} (n : Int) (hd : 0 < d) : 2 * |roundHalfAway n d * d - n| ≤ d := by
  obtain ⟨r, hr, hdiv⟩ := natAbs_roundHalfAway_mul n hd
  rw [abs_roundHalfAway_mul_sub]
  generalize (roundHalfAway n d).natAbs = a at hdiv
  rw [← Nat.cast_mul, Int.abs_eq_natAbs]
  generalize a * d = m at hdiv
  omega

/-- At a tie the remainder is 0, so the rounded value lies beyond the quotient. -/
theorem roundHalfAway_tie {d : Nat} (n : Int) (hd : 0 < d) (h : 2 * |roundHalfAway n d * d - n| = d) :
    |n| < |roundHalfAway n d * d| := by
  obtain ⟨r, hr, hdiv⟩ := natAbs_roundHalfAway_mul n hd
  rw [abs_roundHalfAway_mul_sub, Int.abs_eq_natAbs] at h
  rw [abs_mul, Int.abs_eq_natAbs (roundHalfAway n d), Int.abs_eq_natAbs n, Nat.abs_cast]
  generalize (roundHalfAway n d).natAbs = a at hdiv h ⊢
  rw [← Nat.cast_mul] at h ⊢
  generalize a * d = m at hdiv h ⊢
  omega

/-- Settles O38: the scaled integer is `roundHalfAway` at the denominator `2^149`. -/
theorem scalingRoundsToNearestAwayFromZero : Obligations.ScalingRoundsToNearestAwayFromZero := by
  unfold Obligations.ScalingRoundsToNearestAwayFromZero
  intro v k _
  have hd : 0 < 2 ^ 149 := by positivity
  have hle := roundHalfAway_dist_le (real149 v * k) hd
  have htie := roundHalfAway_tie (real149 v * k) hd
  push_cast at hle htie
  exact ⟨hle, htie⟩

end Sys2Proof.Machine
end

section
/-! PROOFS. The checksum of 40_crc.md R100, R101 as arithmetic in GF(2)[x] modulo the generator polynomial: a bit step
multiplies the register by `x`, a byte step multiplies it by `x^8` and adds the byte times `x^16`. -/
namespace Sys2Proof.Machine
open Polynomial Finset

/-- The polynomial over GF(2) whose coefficient at `k` is bit `k`. -/
noncomputable def bitPoly {w : Nat} (v : BitVec w) : (ZMod 2)[X] :=
  ∑ k ∈ range w, if v.getLsbD k then X ^ k else 0

/-- The polynomial of a message: bit `k` of byte `j` is the coefficient at `8 * (len - 1 - j) + k`. -/
noncomputable def messagePoly (m : List Byte) : (ZMod 2)[X] :=
  ∑ j ∈ range m.length, ∑ k ∈ range 8,
    if (byteAt m j).getLsbD k then X ^ (8 * (m.length - 1 - j) + k) else 0

/-- The generator polynomial: `CRC_POLY` with the leading `x^16` it leaves out. -/
noncomputable def crcGenerator : (ZMod 2)[X] := X ^ 16 + X ^ 12 + X ^ 5 + 1

@[simp] theorem bitPoly_zero (w : Nat) : bitPoly (0#w) = 0 := by simp [bitPoly]

theorem bitPoly_crcPoly : bitPoly crcPoly = X ^ 12 + X ^ 5 + 1 := by
  have hbits : ∀ k, k < 16 → crcPoly.getLsbD k = decide (k = 12 ∨ k = 5 ∨ k = 0) := by decide
  rw [bitPoly, sum_congr rfl fun k hk => by rw [hbits k (mem_range.1 hk)]]
  simp [sum_range_succ]
  ring

theorem bitPoly_xor {w : Nat} (a b : BitVec w) : bitPoly (a ^^^ b) = bitPoly a + bitPoly b := by
  simp only [bitPoly, ← sum_add_distrib, BitVec.getLsbD_xor]
  refine sum_congr rfl fun k _ => ?_
  cases a.getLsbD k <;> cases b.getLsbD k <;> simp [CharTwo.add_self_eq_zero]

/-- A left shift that loses no bit multiplies by a power of `x`. -/
theorem bitPoly_setWidth_shiftLeft {w : Nat} (n : Nat) (v : BitVec w) :
    bitPoly (v.setWidth (n + w) <<< n) = X ^ n * bitPoly v := by
  have hlow : ∀ k ∈ range n, (if (v.setWidth (n + w) <<< n).getLsbD k then (X : (ZMod 2)[X]) ^ k else 0) = 0 := by
    intro k hk
    simp [mem_range.1 hk]
  rw [bitPoly, sum_range_add, sum_eq_zero hlow, zero_add, bitPoly, mul_sum]
  refine sum_congr rfl fun k hk => ?_
  have hk : k < w := mem_range.1 hk
  simp [hk, pow_add]

/-- A left shift by one loses the top bit. -/
theorem bitPoly_shiftLeft_one {w : Nat} (v : BitVec (w + 1)) :
    bitPoly (v <<< 1) + (if v.getLsbD w then X ^ (w + 1) else 0) = X * bitPoly v := by
  rw [bitPoly, sum_range_succ', bitPoly, mul_sum, sum_range_succ _ w]
  have hstep : ∀ k ∈ range w, (if (v <<< 1).getLsbD (k + 1) then (X : (ZMod 2)[X]) ^ (k + 1) else 0) =
      X * (if v.getLsbD k then X ^ k else 0) := by
    intro k hk
    have hbit : (v <<< 1).getLsbD (k + 1) = v.getLsbD k := by
      have hk : k < w := mem_range.1 hk
      simp [hk, Nat.lt_succ_of_lt hk]
    rw [hbit, mul_ite, mul_zero, pow_succ']
  rw [sum_congr rfl hstep]
  simp [pow_succ']

@[simp] theorem messagePoly_nil : messagePoly [] = 0 := rfl

/-- The first byte of a message is its most significant. -/
theorem messagePoly_cons (b : Byte) (m : List Byte) :
    messagePoly (b :: m) = X ^ (8 * m.length) * bitPoly b + messagePoly m := by
  have hhead : (∑ k ∈ range 8, if (byteAt (b :: m) 0).getLsbD k then
      (X : (ZMod 2)[X]) ^ (8 * (m.length + 1 - 1 - 0) + k) else 0) = X ^ (8 * m.length) * bitPoly b := by
    rw [bitPoly, mul_sum]
    refine sum_congr rfl fun k _ => ?_
    rw [mul_ite, mul_zero, ← pow_add]
    rfl
  have htail (j : Nat) : m.length + 1 - 1 - (j + 1) = m.length - 1 - j := by omega
  rw [messagePoly, List.length_cons, sum_range_succ', hhead, add_comm]
  simp only [htail]
  rfl

/-! ## The engine modulo the generator -/

/-- The value of a polynomial in GF(2)[x] modulo the generator. -/
noncomputable def crcResidue : (ZMod 2)[X] →+* AdjoinRoot crcGenerator := AdjoinRoot.mk crcGenerator

/-- Two polynomials have one residue when they differ by a multiple of the generator. -/
theorem crcResidue_eq_iff {p r : (ZMod 2)[X]} :
    crcResidue p = crcResidue r ↔ ∃ q, p = q * crcGenerator + r := by
  rw [crcResidue, AdjoinRoot.mk_eq_mk, dvd_iff_exists_eq_mul_left]
  simp only [sub_eq_iff_eq_add]

/-- The polynomial of one bit step: the top bit, shifted out, is replaced by `CRC_POLY`, which is `x^16` modulo the
generator. -/
theorem crcResidue_crcBit (c : BitVec 16) : crcResidue (bitPoly (crcBit c)) = crcResidue (X * bitPoly c) := by
  have hshift := bitPoly_shiftLeft_one c
  rw [crcBit]
  split
  case isFalse htop =>
    rw [if_neg htop, add_zero] at hshift
    rw [hshift]
  case isTrue htop =>
    rw [if_pos htop] at hshift
    rw [bitPoly_xor, bitPoly_crcPoly, eq_comm, crcResidue_eq_iff]
    have htwice : (X ^ 12 + X ^ 5 + 1 : (ZMod 2)[X]) + (X ^ 12 + X ^ 5 + 1) = 0 := CharTwo.add_self_eq_zero _
    refine ⟨1, ?_⟩
    rw [← hshift, crcGenerator]
    linear_combination -htwice

/-- The byte enters the register eight places up, and eight bit steps follow. -/
theorem crcResidue_crcByte (c : BitVec 16) (b : Byte) :
    crcResidue (bitPoly (crcByte c b)) = crcResidue (X ^ 8 * bitPoly c + X ^ 16 * bitPoly b) := by
  have hbyte : bitPoly (b.zeroExtend 16 <<< 8) = X ^ 8 * bitPoly b := bitPoly_setWidth_shiftLeft 8 b
  simp only [crcByte, crcResidue_crcBit, map_mul, bitPoly_xor, hbyte, map_add, map_pow]
  ring

theorem crcResidue_crcFold (m : List Byte) (c : BitVec 16) :
    crcResidue (bitPoly (crcFold c m)) =
      crcResidue (X ^ (8 * m.length) * bitPoly c + X ^ 16 * messagePoly m) := by
  induction m generalizing c with
  | nil => simp [crcFold]
  | cons b m ih =>
    have hstep : crcFold c (b :: m) = crcFold (crcByte c b) m := rfl
    rw [hstep, ih, messagePoly_cons, List.length_cons]
    simp only [map_add, map_mul, crcResidue_crcByte, map_pow]
    ring

theorem crc16_eq_crcFold (m : List Byte) : crc16 m = crcFold 0 m := BitVec.xor_zero

theorem crcResidue_crc16 (m : List Byte) :
    crcResidue (messagePoly m * X ^ 16) = crcResidue (bitPoly (crc16 m)) := by
  rw [crc16_eq_crcFold, crcResidue_crcFold]
  simp [mul_comm]

/-- Settles O24: message and checksum have one residue modulo the generator, by induction on the message. -/
theorem crcIsPolynomialRemainder : Obligations.CrcIsPolynomialRemainder := by
  unfold Obligations.CrcIsPolynomialRemainder
  exact fun m => crcResidue_eq_iff.1 (crcResidue_crc16 m)

end Sys2Proof.Machine
end

section
/-! PROOFS. What one step does, act by act: the equations of `step` and `nextAct`, and the values of fixed terms. -/
namespace Sys2Proof.Machine

section
variable {s : State} {rest : List Event}

theorem step_eq_nextAct (h : s.params.valid = true) : step s = nextAct s := if_pos h

theorem nextAct_nil (h : s.schedule = []) : nextAct s = blockStep s := by
  unfold nextAct
  rw [h]

theorem nextAct_arrive {bs : List Byte} (h : s.schedule = .arrive bs :: rest) :
    nextAct s = .next (arrive bs { s with schedule := rest }) := by
  unfold nextAct
  rw [h]

theorem nextAct_advance {n : Nat} (h : s.schedule = .advance n :: rest) :
    nextAct s = .next (advanceClock n { s with schedule := rest }) := by
  unfold nextAct
  rw [h]

theorem nextAct_blockStep (h : s.schedule = .blockStep :: rest) : nextAct s = blockStep { s with schedule := rest } := by
  unfold nextAct
  rw [h]

theorem nextAct_reset (h : s.schedule = .reset :: rest) :
    nextAct s = .next (applyReset { s with schedule := rest }) := by
  unfold nextAct
  rw [h]

/-- A unit whose port is free is presented. -/
theorem nextAct_present_free {c : Channel} {bytes : List Byte} (h : s.schedule = .present c bytes :: rest)
    (hfree : c = .host → s.activity = .idle) : nextAct s = presentUnit c bytes { s with schedule := rest } := by
  unfold nextAct
  rw [h]
  exact if_neg (by simpa [portBusy] using hfree)

/-- An operation waits at a busy port. -/
theorem nextAct_present_busy {bytes : List Byte} (h : s.schedule = .present .host bytes :: rest)
    (hbusy : s.activity ≠ .idle) : nextAct s = blockStep s := by
  unfold nextAct
  rw [h]
  exact if_pos (by simpa [portBusy] using hbusy)

theorem presentUnit_of_decode {c : Channel} {bytes more : List Byte} {i : Instr}
    (h : decode s.params c bytes = some (i, more)) : presentUnit c bytes s = exec i s := by
  unfold presentUnit
  rw [h]

theorem blockStep_idle (h : s.activity = .idle) : blockStep s = .next s := by
  unfold blockStep
  rw [h]

end

/-- Settles O1: the presented unit is decoded and run. -/
theorem stepRunsPresentedUnit : Obligations.StepRunsPresentedUnit := by
  unfold Obligations.StepRunsPresentedUnit
  intro s c bytes more rest i hv hs hfree hd
  rw [step_eq_nextAct hv, nextAct_present_free hs hfree]
  exact presentUnit_of_decode hd

/-- Settles O2: one equation of `nextAct` per act. -/
theorem stepPerformsOtherActs : Obligations.StepPerformsOtherActs := by
  unfold Obligations.StepPerformsOtherActs
  intro s rest hv
  rw [step_eq_nextAct hv]
  exact ⟨fun _ => nextAct_arrive, fun _ => nextAct_advance, nextAct_blockStep, fun _ => nextAct_present_busy,
    nextAct_nil, fun hs ha => (nextAct_nil hs).trans (blockStep_idle ha)⟩

/-- Settles O9: each register of `State.reset` is the value of R38. -/
theorem resetLeavesTheRuleValues : Obligations.ResetLeavesTheRuleValues := by
  unfold Obligations.ResetLeavesTheRuleValues
  decide

/-- Settles O44: both layouts are fixed terms. -/
theorem layoutsOfTheSpec : Obligations.LayoutsOfTheSpec := by
  unfold Obligations.LayoutsOfTheSpec
  decide

end Sys2Proof.Machine
end

section
/-! PROOFS. What no step changes, or changes in a few cases only: the parameters and the clock (10_state.md R35), the
deadline (R28), the telemetry record (R30, R32). The effects of Laws/Steps.lean are taken case by case. -/
namespace Sys2Proof.Machine

/-- A presented unit that ran only appended to the receive queue, or it is a host operation at a free port. -/
theorem presented_cases {s t : State} {c : Channel} {bytes more : List Byte} {i : Instr}
    (hfree : c = .host → s.activity = .idle) (hd : decode s.params c bytes = some (i, more))
    (h : exec i s = .next t) : (∃ bs, t = arrive bs s) ∨ (s.activity = .idle ∧ ExecEffect i s t) := by
  by_cases hc : c = .host
  · exact .inr ⟨hfree hc, exec_effect h⟩
  · exact .inl (exec_wire (by rwa [decode_channel hd]) h)

/-! ## Parameters, transport input and clock -/

/-- Nothing static has changed, and the clock has not gone back. -/
def StaticKept (s t : State) : Prop :=
  t.params = s.params ∧ t.transportPresent = s.transportPresent ∧ s.clock ≤ t.clock

theorem ExecEffect.staticKept {i : Instr} {s t : State} (h : ExecEffect i s t) : StaticKept s t := by
  cases h <;> exact ⟨rfl, rfl, le_rfl⟩

theorem RxEffect.staticKept {r : Receiver} {s t : State} (h : RxEffect r s t) : StaticKept s t := by
  cases h <;> exact ⟨rfl, rfl, le_rfl⟩

theorem BlockEffect.staticKept {s t : State} (h : BlockEffect s t) : StaticKept s t := by
  cases h with
  | receiving r t ha hr => exact hr.staticKept
  | _ => exact ⟨rfl, rfl, le_rfl⟩

theorem StepEffect.staticKept {s t : State} (h : StepEffect s t) : StaticKept s t := by
  cases h with
  | block rest t hs hb => exact hb.staticKept
  | ran c bytes more rest i t hs hf hd he => exact (exec_effect he).staticKept
  | advanced n rest hs => exact ⟨rfl, rfl, Nat.le_add_right _ n⟩
  | arrived | wasReset => exact ⟨rfl, rfl, le_rfl⟩

/-- Settles O14: every effect of a step keeps what is static. -/
theorem parametersStayAndClockAdvances : Obligations.ParametersStayAndClockAdvances := by
  unfold Obligations.ParametersStayAndClockAdvances
  exact fun s t h => (step_effect h).2.staticKept

/-! ## The deadline of a receive -/

theorem RxEffect.deadline_eq {r : Receiver} {s t : State} (h : RxEffect r s t) : t.deadline = s.deadline := by
  cases h <;> rfl

theorem BlockEffect.deadline_eq {r : Receiver} {s t : State} (h : BlockEffect s t) (ha : s.activity = .receiving r) :
    t.deadline = s.deadline := by
  cases h with
  | armed k hk => cases ha.symm.trans hk
  | receiving k t hk hr => exact hr.deadline_eq
  | idle | noTransport => rfl

/-- Settles O18: only an idle block starts a receive, and only a sent request reads the clock. -/
theorem deadlineIsNeverExtended : Obligations.DeadlineIsNeverExtended := by
  unfold Obligations.DeadlineIsNeverExtended
  intro s t r ha h
  obtain ⟨-, h⟩ := step_effect h
  cases h with
  | block rest t hs hb => exact .inl (hb.deadline_eq ha)
  | ran c bytes more rest i t hs hf hd he =>
    rcases presented_cases (s := { s with schedule := rest }) hf hd he with ⟨bs, rfl⟩ | ⟨hidle, -⟩
    · exact .inl rfl
    · cases ha.symm.trans hidle
  | arrived | advanced => exact .inl rfl
  | wasReset rest hs => exact .inr ⟨rest, hs⟩

/-! ## The telemetry record -/

/-- The record and its valid bit are as before. -/
def RecordKept (s t : State) : Prop := t.telem = s.telem ∧ t.tvalid = s.tvalid

/-- An operation has ended with `STATUS` 0 and the record `m`. -/
def EndedWithRecord (m : Telem) (t : State) : Prop :=
  t.telem = some m ∧ t.tvalid = true ∧ t.status = 0 ∧ t.activity = .idle

/-- A request has taken the stop byte of the reply it had assembled, whose CRC matches and whose record is `m`. -/
def TookStopByte (m : Telem) (s t : State) : Prop :=
  s.rxst = .accumulate ∧ s.clock < s.deadline ∧ s.rxcnt.toNat = s.rxlen.toNat + 2 ∧
    s.rxQueue = s.params.markerStop :: t.rxQueue ∧
    ∃ p : List Byte, p = memReadAll s.rxbuf 0 s.rxlen.toNat ∧
      crc16 p = ofBe16 (memByte s.rxbuf p.length) (memByte s.rxbuf (p.length + 1)) ∧ telemetryOf s.params p = .ok m

theorem memReadAll_length (m : Memory) (off n : Nat) : (memReadAll m off n).length = n := by simp [memReadAll]

theorem ExecEffect.record {i : Instr} {s t : State} (h : ExecEffect i s t) :
    RecordKept s t ∨ ∃ p m, i = .decTelemetry p ∧ telemetryOf s.params p = .ok m ∧ EndedWithRecord m t := by
  cases h with
  | decoded p m hi hm => exact .inr ⟨p, m, hi, hm, rfl, rfl, rfl, rfl⟩
  | _ => exact .inl ⟨rfl, rfl⟩

theorem RxEffect.record {r : Receiver} {s t : State} (h : RxEffect r s t) :
    RecordKept s t ∨ ∃ m, r = .requestTelemetry ∧ EndedWithRecord m t ∧ TookStopByte m s t := by
  cases h with
  | assembled b q st res k m v hs hq hd hi hst hm =>
    rcases hm with ⟨rfl, rfl⟩ | ⟨hr, rfl, rfl, hcnt, rfl, hcrc, x, rfl, hx⟩
    · exact .inl ⟨rfl, rfl⟩
    · exact .inr ⟨x, hr, ⟨rfl, rfl, rfl, rfl⟩, hs, hd, hcnt, hq, _, rfl, by rwa [memReadAll_length], hx⟩
  | _ => exact .inl ⟨rfl, rfl⟩

theorem BlockEffect.record {s t : State} (h : BlockEffect s t) :
    RecordKept s t ∨ ∃ m, s.activity = .receiving .requestTelemetry ∧ EndedWithRecord m t ∧ TookStopByte m s t := by
  cases h with
  | receiving r t ha hr =>
    rcases hr.record with hk | ⟨m, rfl, hm⟩
    · exact .inl hk
    · exact .inr ⟨m, ha, hm⟩
  | _ => exact .inl ⟨rfl, rfl⟩

/-- Settles O17: of the effects of a step, a reset, a decoding `DEC_TELEMETRY` and the stop byte of a request's reply are
those that do not keep the record. -/
theorem telemetryChangesOnlyByDecodeOrReset : Obligations.TelemetryChangesOnlyByDecodeOrReset := by
  unfold Obligations.TelemetryChangesOnlyByDecodeOrReset
  intro s t h hne
  obtain ⟨-, h⟩ := step_effect h
  have hchanged : ¬ RecordKept s t := fun ⟨htelem, hvalid⟩ => hne.elim (· htelem) (· hvalid)
  cases h with
  | block rest t hs hb =>
    rcases hb.record with hk | ⟨m, ha, ⟨htelem, hvalid, hst, hidle⟩, hstop⟩
    · exact absurd hk hchanged
    · exact .inr ⟨m, htelem, hvalid, hst, hidle, .inr ⟨ha, hstop⟩⟩
  | ran c bytes more rest i t hs hf hd he =>
    rcases (exec_effect he).record with hk | ⟨p, m, rfl, hm, htelem, hvalid, hst, hidle⟩
    · exact absurd hk hchanged
    · exact .inr ⟨m, htelem, hvalid, hst, hidle, .inl ⟨c, bytes, more, p, rest, hs, hd, hm⟩⟩
  | arrived | advanced => exact absurd ⟨rfl, rfl⟩ hchanged
  | wasReset rest hs => exact .inl ⟨rest, hs, rfl, rfl⟩

end Sys2Proof.Machine
end

section
/-! PROOFS. The invariant of Safety.lean: it holds after reset, and every effect of a step keeps it. First the values a
frame and a length field take, then one lemma per shared update of State, then the effects of Laws/Steps.lean. -/
namespace Sys2Proof.Machine

/-! ## Frames, counters and length fields -/

theorem frameHeader_length (P : Params) (n : Nat) :
    (frameHeader P n).length = if n < shortLimit then 2 else 3 := by
  unfold frameHeader
  split <;> rfl

theorem frame_length (P : Params) (p : List Byte) :
    (frame P p).length = p.length + if p.length < shortLimit then 5 else 6 := by
  simp only [frame, List.length_append, frameHeader_length, be16_length, List.length_singleton]
  split <;> omega

/-- The longest frame has 65541 bytes (41_frame_encoder.md R121). -/
theorem frame_length_le (P : Params) {p : List Byte} (hp : p.length ≤ maxPayload) :
    (frame P p).length ≤ maxPayload + 6 := by
  rw [frame_length]
  split <;> omega

/-- The loaded frame reads back from `TXBUF`, and past it what was there. -/
theorem txbufRead_loadFrame {p : List Byte} (hp : p.length ≤ maxPayload) (s : State) (i : Nat) :
    txbufRead (loadFrame p s) i = if i < (frame s.params p).length then (frame s.params p)[i]? else txbufRead s i :=
  txbufRead_txbufStore (frame_length_le s.params hp) s i

/-- A count of at most a frame's bytes fits `TXLEN` and `TXCOUNT`. -/
theorem toNat_ofNat_of_le_frame {n : Nat} (h : n ≤ maxPayload + 6) : (BitVec.ofNat 17 n).toNat = n := by
  rw [BitVec.toNat_ofNat]
  exact Nat.mod_eq_of_lt (Nat.lt_of_le_of_lt h (by decide))

/-- A counter that does not wrap. -/
theorem toNat_add_one {w : Nat} {x : BitVec w} (h : x.toNat + 1 < 2 ^ w) : (x + 1).toNat = x.toNat + 1 := by
  simp [BitVec.toNat_add, Nat.mod_eq_of_lt h]

/-- A length byte enters at the bottom of `RXLEN` (42_frame_receiver.md R146). -/
theorem toNat_shiftIn {len : BitVec 16} (b : Byte) (h : len.toNat < 256) :
    ((len <<< 8) ||| b.zeroExtend 16).toNat = len.toNat * 256 + b.toNat := by
  have hb := b.isLt
  have hlen : (len <<< 8).toNat = len.toNat <<< 8 := by
    rw [BitVec.toNat_shiftLeft, Nat.shiftLeft_eq]
    omega
  have hbyte : (b.zeroExtend 16).toNat = b.toNat := BitVec.toNat_setWidth_of_le (by decide)
  rw [BitVec.toNat_or, hlen, hbyte, ← Nat.shiftLeft_add_eq_or_of_lt hb, Nat.shiftLeft_eq]

/-- Where another length byte is still due after the next, the field is the first of two bytes, and what has been read of
it keeps below its bound. -/
theorem length_due_after_byte {cnt need : BitVec 2} {kind : BitVec 1} {len : BitVec 16} (b : Byte)
    (h : cnt.toNat < need.toNat ∧ need.toNat = (if kind = 0 then 1 else 2) ∧ len.toNat < 256 ^ cnt.toNat)
    (hn : cnt + 1 ≠ need) :
    (cnt + 1).toNat < need.toNat ∧ need.toNat = (if kind = 0 then 1 else 2) ∧
      ((len <<< 8) ||| b.zeroExtend 16).toNat < 256 ^ (cnt + 1).toNat := by
  obtain ⟨hlt, hneed, hlen⟩ := h
  have hle : need.toNat ≤ 2 := by rw [hneed]; split <;> decide
  have hsucc : (cnt + 1).toNat = cnt.toNat + 1 := toNat_add_one (by omega)
  have hne : cnt.toNat + 1 ≠ need.toNat := fun h => hn (BitVec.eq_of_toNat_eq (hsucc.trans h))
  have hzero : cnt.toNat = 0 := by omega
  rw [hzero, pow_zero] at hlen
  rw [hsucc, toNat_shiftIn b (by omega), hzero]
  have hb := b.isLt
  exact ⟨by omega, hneed, by omega⟩

/-! ## Updates that keep the invariant -/

theorem reset_inv : State.reset.Inv where
  legal_parameters := by decide
  status_legal := by decide
  rxbuf_canonical := reset_memories_wf.1
  txbuf_canonical := reset_memories_wf.2
  rxbuf_inside := fun _ hc => absurd hc List.not_mem_nil
  txbuf_inside := fun _ hc => absurd hc List.not_mem_nil
  txlen_bound := by decide
  txcount_bound := by decide
  txbuf_written := fun i hi => absurd hi (Nat.not_lt_zero i)
  mark_inside := le_rfl
  record_present := rfl
  busy_transport := fun hne => absurd rfl hne
  receiver_running := iff_of_false (fun hne => hne rfl) nofun
  never_done := nofun
  length_due := nofun
  bytes_due := nofun

section
variable {s : State}

theorem State.Inv.rxst_idle_of_idle (h : s.Inv) (ha : s.activity = .idle) : s.rxst = .idle := by
  by_contra hne
  obtain ⟨r, hr⟩ := h.receiver_running.1 hne
  cases ha.symm.trans hr

theorem State.Inv.withSchedule (h : s.Inv) (l : List Event) : { s with schedule := l }.Inv := { h with }

theorem State.Inv.withQueue (h : s.Inv) (q : List Byte) : { s with rxQueue := q }.Inv := { h with }

theorem State.Inv.withRecord (h : s.Inv) {m : Option Telem} {v : Bool} (hv : v = m.isSome) :
    { s with telem := m, tvalid := v }.Inv := { h with record_present := hv }

/-- A byte is stored in `RXBUF`. -/
theorem State.Inv.storeByte (h : s.Inv) {i : Nat} (b : Byte) (hi : i < s.params.rxMaxPayload + 3) :
    { s with rxbuf := memWrite s.rxbuf i b }.Inv :=
  { h with
    rxbuf_canonical := memWrite_wf i b h.rxbuf_canonical
    rxbuf_inside := insideBelow_memWrite hi h.rxbuf_inside
    bytes_due := fun hs =>
      have ⟨hlen, hcnt, hw⟩ := h.bytes_due hs
      ⟨hlen, hcnt, writtenBelow_memWrite i b hw⟩ }

/-- The operation in progress ends, its receiver, if it had one, back to IDLE; of the receiver's registers RXLEN,
RXLENCNT and RXCNT may have changed. -/
theorem State.Inv.stop (h : s.Inv) {st : BitVec 8} (hst : st.toNat ≤ 9) (res : HostResult) (k : BitVec 16)
    (len : BitVec 16) (lencnt : BitVec 2) (cnt : BitVec 17) :
    (ended st res { s with crc := k, rxlen := len, rxlencnt := lencnt, rxcnt := cnt, rxst := .idle }).Inv :=
  { h with
    status_legal := hst
    busy_transport := fun hne => absurd rfl hne
    receiver_running := iff_of_false (fun hne => hne rfl) nofun
    never_done := nofun
    length_due := nofun
    bytes_due := nofun }

/-- An operation that is no receive ends. -/
theorem State.Inv.endOperation (h : s.Inv) (hidle : s.rxst = .idle) {st : BitVec 8} (hst : st.toNat ≤ 9) (res : HostResult)
    (k : BitVec 16) : (ended st res { s with crc := k }).Inv :=
  hidle ▸ h.stop hst res k s.rxlen s.rxlencnt s.rxcnt

theorem State.Inv.buildFrame (h : s.Inv) {p : List Byte} (hp : p.length ≤ maxPayload) : (loadFrame p s).Inv :=
  have hlen := frame_length_le s.params hp
  { h with
    txbuf_canonical := memWriteAll_wf _ 0 h.txbuf_canonical
    txbuf_inside := insideBelow_memWriteAll _ 0 (by rw [Nat.zero_add]; exact take_txbufCapacity_length_le _) h.txbuf_inside
    txlen_bound := by rw [loadFrame_txlen, toNat_ofNat_of_le_frame hlen]; exact hlen
    txbuf_written := fun i hi => by
      rw [loadFrame_txlen, toNat_ofNat_of_le_frame hlen] at hi
      rw [txbufRead_loadFrame hp, if_pos hi, List.getElem?_eq_getElem hi]
      rfl }

theorem State.Inv.sendFrame (h : s.Inv) {p : List Byte} (hp : p.length ≤ maxPayload) : (afterSend p s).Inv :=
  { h.buildFrame hp with
    status_legal := Nat.zero_le 9
    txcount_bound := by
      have hcount : txCountOf (frame s.params p) s ≤ maxPayload + 6 :=
        (Nat.min_le_right _ _).trans (frame_length_le s.params hp)
      exact (toNat_ofNat_of_le_frame hcount).le.trans hcount
    mark_inside := h.mark_inside.trans (List.length_append ▸ Nat.le_add_right _ _) }

/-- A receive starts. -/
theorem State.Inv.armReceiver (h : s.Inv) (ht : s.transportPresent = true) (d : Nat) (r : Receiver) :
    { s with deadline := d, rxst := .seekStart, rxcnt := 0, activity := .receiving r }.Inv :=
  { h with
    busy_transport := fun _ => ht
    receiver_running := iff_of_true nofun ⟨r, rfl⟩
    never_done := nofun
    length_due := nofun
    bytes_due := nofun }

/-- What a reset leaves as it was bears on the parameters and the transmit stream only. -/
theorem State.Inv.reset (h : s.Inv) : (applyReset s).Inv :=
  { reset_inv with
    legal_parameters := h.legal_parameters
    rxbuf_inside := fun _ hc => absurd hc List.not_mem_nil
    mark_inside := le_rfl
    busy_transport := fun hne => absurd rfl hne
    bytes_due := nofun }

end

/-! ## Every effect keeps the invariant -/

theorem ExecEffect.inv {i : Instr} {s t : State} (hs : s.Inv) (ha : s.activity = .idle) (h : ExecEffect i s t) :
    t.Inv := by
  have hidle : s.rxst = .idle := hs.rxst_idle_of_idle ha
  cases h with
  | crcOnly st r k hst => exact hs.endOperation hidle hst r k
  | built p r hp => exact (hs.buildFrame hp).endOperation hidle (by decide) r _
  | sent p r ht hp => exact (hs.sendFrame hp).endOperation hidle (by decide) r _
  | requested p k ht hp =>
    have hsent := hs.sendFrame hp
    exact { hsent with
      busy_transport := fun _ => ht
      receiver_running := iff_of_false (fun hne => hne hidle) nofun }
  | started d ht => exact hs.armReceiver ht d .rxReceive
  | decoded p m hi hm => exact (hs.withRecord (m := some m) rfl).endOperation hidle (by decide) .done _
  | arrived bs => exact hs.withQueue _

theorem RxEffect.inv {r : Receiver} {s t : State} (hs : s.Inv) (ha : s.activity = .receiving r) (h : RxEffect r s t) :
    t.Inv := by
  cases h with
  | expired hd => exact hs.stop (by decide) _ s.crc s.rxlen s.rxlencnt 0
  | waited hd hq => exact hs
  | dropped b q hst hq hd hA hB => exact hs.withQueue q
  | opened b q kind hst hq hd =>
    exact { hs with
      receiver_running := iff_of_true nofun ⟨r, ha⟩
      never_done := nofun
      length_due := fun _ => ⟨by dsimp only; split <;> decide, by dsimp only; split <;> rfl, Nat.zero_lt_one⟩
      bytes_due := nofun }
  | lengthByte b q hst hq hd hn =>
    exact { hs with
      length_due := fun _ => length_due_after_byte b (hs.length_due hst) hn
      bytes_due := fun h => absurd (hst.symm.trans h) nofun }
  | lengthDone b q hst hq hd hn hl =>
    exact { hs with
      receiver_running := iff_of_true nofun ⟨r, ha⟩
      never_done := nofun
      length_due := nofun
      bytes_due := fun _ => ⟨hl, Nat.zero_lt_succ _, fun i hi => absurd hi (Nat.not_lt_zero i)⟩ }
  | tooLong b q len hst hq hd hl => exact (hs.withQueue q).stop (by decide) _ s.crc len (s.rxlencnt + 1) s.rxcnt
  | stored b q hst hq hd hi hn =>
    obtain ⟨hlen, hcnt, hw⟩ := hs.bytes_due hst
    have hfits := s.rxlen.isLt
    have hsucc : (s.rxcnt + 1).toNat = s.rxcnt.toNat + 1 := toNat_add_one (by omega)
    have hstore := (hs.withQueue q).storeByte b hi
    exact { hstore with
      bytes_due := fun _ => ⟨hlen, by dsimp only; omega, by rw [hsucc]; exact writtenBelow_memWrite_succ b hw⟩ }
  | discarded b q hst hq hd hi =>
    have hstore := (hs.withQueue q).storeByte b hi
    exact { hstore with
      receiver_running := iff_of_true nofun ⟨r, ha⟩
      never_done := nofun
      length_due := nofun
      bytes_due := nofun }
  | assembled b q st res k m v hst hq hd hi hle hm =>
    have hv : v = m.isSome := by
      rcases hm with ⟨rfl, rfl⟩ | ⟨-, rfl, -, -, -, -, x, rfl, -⟩
      · exact hs.record_present
      · rfl
    exact (((hs.withQueue q).storeByte b hi).withRecord hv).stop hle res k s.rxlen s.rxlencnt (s.rxcnt + 1)

theorem BlockEffect.inv {s t : State} (hs : s.Inv) (h : BlockEffect s t) : t.Inv := by
  cases h with
  | idle ha => exact hs
  | armed r ha ht => exact hs.armReceiver ht _ r
  | noTransport r ha ht => exact absurd (hs.busy_transport (by rw [ha]; exact nofun)) (by simp [ht])
  | receiving r t ha hr => exact hr.inv hs ha

theorem StepEffect.inv {s t : State} (hs : s.Inv) (h : StepEffect s t) : t.Inv := by
  cases h with
  | block rest t hsch hb => exact hb.inv (hs.withSchedule rest)
  | ran c bytes more rest i t hsch hf hd he =>
    have hrest := hs.withSchedule rest
    rcases presented_cases (s := { s with schedule := rest }) hf hd he with ⟨bs, rfl⟩ | ⟨ha, he⟩
    · exact hrest.withQueue _
    · exact he.inv hrest ha
  | arrived bs rest hsch => exact (hs.withSchedule rest).withQueue _
  | advanced n rest hsch => exact { hs with }
  | wasReset rest hsch => exact (hs.withSchedule rest).reset

/-- Settles O12: every effect of a step keeps the invariant. -/
theorem everyStepKeepsInvariant : Obligations.EveryStepKeepsInvariant := by
  unfold Obligations.EveryStepKeepsInvariant
  exact fun s t hs h => (step_effect h).2.inv hs

/-- Settles O11. -/
theorem invariantAtReset : Obligations.InvariantAtReset := reset_inv

end Sys2Proof.Machine
end

section
/-! PROOFS. No state of the invariant is one in which the model stops: every operation of the host port and every block
step has a next state. -/
namespace Sys2Proof.Machine

theorem returnPayload_isNext (c : Except BlockError (List Byte)) (s : State) : ∃ t, returnPayload c s = .next t :=
  ⟨_, returnPayload_eq c s⟩

theorem sendCommand_isNext (c : Except BlockError (List Byte)) (s : State) : ∃ t, sendCommand c s = .next t :=
  finish_isNext _ _

theorem sendRequest_isNext (c : Except BlockError (List Byte)) (r : Receiver) (s : State) :
    ∃ t, sendRequest c r s = .next t := by
  rcases sendRequest_cases c r s with ⟨p, -, -, -, h⟩ | ⟨e, h⟩
  · exact ⟨_, h⟩
  · exact ⟨_, h⟩

theorem execRxReceive_isNext (d : Nat) (s : State) : ∃ t, execRxReceive d s = .next t := by
  unfold execRxReceive
  cases startReceive d s with
  | ok _ s1 => exact ⟨_, rfl⟩
  | raised e s1 => exact ⟨_, rfl⟩

/-- The record is there to be read where `TVALID` is 1 (10_state.md R39). -/
theorem execReadTelemetry_isNext {s : State} (h : s.tvalid = s.telem.isSome) : ∃ t, execReadTelemetry s = .next t := by
  unfold execReadTelemetry
  rw [h]
  cases s.telem with
  | none => exact ⟨_, rfl⟩
  | some m => exact ⟨_, rfl⟩

theorem endReceive_isNext (r : Receiver) (p : List Byte) (c : BitVec 16) (s : State) :
    ∃ t, endReceive r p c s = .next t := by
  cases r with
  | rxReceive => exact ⟨_, rfl⟩
  | requestTelemetry | scanForControllers => exact finish_isNext _ _

theorem arriveFrameOf_ne_fault (p : List Byte) (s : State) (f : Fault) : arriveFrameOf p s ≠ .fault f := by
  unfold arriveFrameOf
  split <;> exact nofun

/-- A host operation has a next state. -/
theorem exec_isNext {i : Instr} {s : State} (hi : i.channel = .host) (hrec : s.tvalid = s.telem.isSome) :
    ∃ t, exec i s = .next t := by
  cases i with
  | crcInit | crcByte | crcBlock | crcCheck | illegal => exact ⟨_, rfl⟩
  | frameBuild | frameSend | rxValidate | decTelemetry | decScanReply => exact finish_isNext _ _
  | rxReceive d => exact execRxReceive_isNext d s
  | encScan => exact returnPayload_isNext (encScan s.params) s
  | encGetValues | encOpenloop | encStop | encJoystick | encSetCurrent | encSetBrake | encSetRpm | encSetDuty
  | fwdWrap => exact returnPayload_isNext _ s
  | readTelemetry => exact execReadTelemetry_isNext hrec
  | requestTelemetry | scanForControllers => exact sendRequest_isNext _ _ s
  | sendCurrent | sendBrakeCurrent | sendRpm | sendDuty | sendJoystick | runOpenloop | stop =>
    exact sendCommand_isNext _ s
  | _ => cases hi

theorem ne_fault_of_isNext {o : Host.Outcome State Fault Refusal} (h : ∃ t, o = .next t) (f : Fault) : o ≠ .fault f := by
  obtain ⟨t, rfl⟩ := h
  exact nofun

theorem ne_refused_of_isNext {o : Host.Outcome State Fault Refusal} (h : ∃ t, o = .next t) (f : Refusal) :
    o ≠ .refused f := by
  obtain ⟨t, rfl⟩ := h
  exact nofun

/-- A unit of the link arrives in the frame of its payload. -/
theorem exec_wire_eq {i : Instr} (hi : i.channel ≠ .host) (s : State) : ∃ p, exec i s = arriveFrameOf p s := by
  cases i with
  | frameShort p => exact ⟨p, rfl⟩
  | frameLong p => exact ⟨p, rfl⟩
  | payloadGetValues => exact ⟨getValuesPayload s.params, rfl⟩
  | payloadSetDuty d => exact ⟨setDutyPayload s.params (be32 d), rfl⟩
  | payloadSetCurrent c => exact ⟨setCurrentPayload s.params (be32 c), rfl⟩
  | payloadSetCurrentBrake c => exact ⟨setBrakePayload s.params (be32 c), rfl⟩
  | payloadSetRpm r => exact ⟨setRpmPayload s.params r, rfl⟩
  | payloadForward a inner => exact ⟨envelope s.params a inner, rfl⟩
  | payloadSetChuckData x y a b => exact ⟨chuckPayload s.params x y a b, rfl⟩
  | payloadPingCan => exact ⟨scanPayload s.params, rfl⟩
  | payloadOpenloop c e => exact ⟨openloopPayload s.params (be32 c) e, rfl⟩
  | payloadStop => exact ⟨stopPayload s.params, rfl⟩
  | replyTelemetry m => exact ⟨telemetryReplyPayload s.params m, rfl⟩
  | replyScan addrs => exact ⟨scanReplyPayload s.params addrs, rfl⟩
  | _ => exact absurd rfl hi

theorem State.Inv.exec_ne_fault {s : State} (h : s.Inv) (i : Instr) (f : Fault) : exec i s ≠ .fault f := by
  by_cases hi : i.channel = .host
  · exact ne_fault_of_isNext (exec_isNext hi h.record_present) f
  · obtain ⟨p, hp⟩ := exec_wire_eq hi s
    exact hp ▸ arriveFrameOf_ne_fault p s f

/-! ## The receiver -/

/-- A receiver step is no stop of the model. -/
def RxStep.NoFault (x : RxStep) : Prop := ∀ f, x ≠ .fault f

theorem rxWithByte_noFault {s : State} {k : Byte → State → RxStep} (hk : ∀ b q, (k b { s with rxQueue := q }).NoFault) :
    (rxWithByte s k).NoFault := by
  unfold rxWithByte
  split
  · exact fun f => nofun
  · split
    · exact fun f => nofun
    · exact hk _ _

theorem rxSeekStart_noFault (b : Byte) (s : State) : (rxSeekStart b s).NoFault := by
  intro f
  unfold rxSeekStart
  split
  · exact nofun
  · split <;> exact nofun

theorem rxReadLength_noFault (b : Byte) (s : State) : (rxReadLength b s).NoFault := by
  intro f
  simp only [rxReadLength, rxLengthComplete]
  split
  · split <;> exact nofun
  · exact nofun

/-- The index of the byte due is one of `RXBUF` (10_state.md R27). -/
theorem rxAccumulate_noFault (b : Byte) {s : State} (h : s.rxcnt.toNat < s.params.rxMaxPayload + 3) :
    (rxAccumulate b s).NoFault := by
  intro f
  unfold rxAccumulate
  rw [if_neg (Nat.not_le.2 h)]
  dsimp only
  split
  · split <;> exact nofun
  · exact nofun

/-- A running receiver always has a transition (42_frame_receiver.md R142). -/
theorem State.Inv.rxStep_noFault {s : State} (h : s.Inv) {r : Receiver} (ha : s.activity = .receiving r) : (rxStep s).NoFault := by
  unfold rxStep
  cases hst : s.rxst with
  | idle => exact absurd hst (h.receiver_running.2 ⟨r, ha⟩)
  | seekStart => exact rxWithByte_noFault fun b q => rxSeekStart_noFault b _
  | readLength => exact rxWithByte_noFault fun b q => rxReadLength_noFault b _
  | accumulate =>
    obtain ⟨hlen, hcnt, -⟩ := h.bytes_due hst
    exact rxWithByte_noFault fun b q => rxAccumulate_noFault b (s := { s with rxQueue := q }) (by dsimp only; omega)
  | done => exact absurd hst h.never_done

theorem State.Inv.blockStep_isNext {s : State} (h : s.Inv) : ∃ t, blockStep s = .next t := by
  unfold blockStep
  cases ha : s.activity with
  | idle => exact ⟨s, rfl⟩
  | sent r =>
    dsimp only
    cases startReceive (s.clock + s.params.rxTimeout) s with
    | ok _ s1 => exact ⟨_, rfl⟩
    | raised e s1 => exact ⟨_, rfl⟩
  | receiving r =>
    have hno := h.rxStep_noFault ha
    dsimp only
    cases hx : rxStep s with
    | wait s1 => exact ⟨s1, rfl⟩
    | more s1 => exact ⟨s1, rfl⟩
    | frame p c s1 => exact endReceive_isNext r p c s1
    | raised e s1 => exact ⟨_, rfl⟩
    | fault f => exact absurd hx (hno f)

theorem State.Inv.presentUnit_ne_fault {s : State} (h : s.Inv) (c : Channel) (bytes : List Byte) (f : Fault) :
    presentUnit c bytes s ≠ .fault f := by
  unfold presentUnit
  split
  · exact h.exec_ne_fault _ f
  · exact nofun

/-- Of the acts of a schedule only a block step and a presented unit could fault. -/
theorem State.Inv.step_ne_fault {s : State} (h : s.Inv) (f : Fault) : step s ≠ .fault f := by
  have hblock (u : State) (hu : u.Inv) : blockStep u ≠ .fault f := ne_fault_of_isNext hu.blockStep_isNext f
  rw [step_eq_nextAct h.legal_parameters]
  cases hs : s.schedule with
  | nil => rw [nextAct_nil hs]; exact hblock s h
  | cons e rest =>
    have hrest := h.withSchedule rest
    cases e with
    | present c bytes =>
      by_cases hfree : c = .host → s.activity = .idle
      · rw [nextAct_present_free hs hfree]; exact hrest.presentUnit_ne_fault c bytes f
      · obtain ⟨rfl, hbusy⟩ := Classical.not_imp.1 hfree
        rw [nextAct_present_busy hs hbusy]; exact hblock s h
    | arrive bs => rw [nextAct_arrive hs]; exact nofun
    | advance n => rw [nextAct_advance hs]; exact nofun
    | blockStep => rw [nextAct_blockStep hs]; exact hblock _ hrest
    | reset => rw [nextAct_reset hs]; exact nofun

/-- Settles O13: under the invariant every block step and every host operation has a next state. -/
theorem noFaultUnderInvariant : Obligations.NoFaultUnderInvariant := by
  unfold Obligations.NoFaultUnderInvariant
  exact fun s h => ⟨h.step_ne_fault, ne_refused_of_isNext h.blockStep_isNext, h.exec_ne_fault,
    fun i f hi => ne_refused_of_isNext (exec_isNext hi h.record_present) f⟩

end Sys2Proof.Machine
end

section
/-! PROOFS. The transport's two byte sequences (20_memory.md R50 (d), (e)): what is sent is appended and nothing else
touches the transmit stream (R56, R57); the receive queue is appended to, or loses its oldest byte (R58, 10_state.md R37).
The effects of Laws/Steps.lean are taken case by case. -/
namespace Sys2Proof.Machine

/-! ## The transmit stream -/

/-- The bytes `more` were sent, and the mark of the last reset stands where it was. -/
def Sent (more : List Byte) (s t : State) : Prop := t.txStream = s.txStream ++ more ∧ t.txMark = s.txMark

theorem sent_nil {s t : State} (hstream : t.txStream = s.txStream) (hmark : t.txMark = s.txMark) : Sent [] s t :=
  ⟨hstream.trans (List.append_nil _).symm, hmark⟩

/-- Where the mark lies inside the stream, what is sent stands behind what had been sent since reset. -/
theorem Sent.sentSinceReset_eq {more : List Byte} {s t : State} (h : Sent more s t) (hin : s.txMark ≤ s.txStream.length) :
    sentSinceReset t = sentSinceReset s ++ more := by
  obtain ⟨hstream, hmark⟩ := h
  unfold sentSinceReset
  rw [hstream, hmark, List.drop_append_of_le_length hin]

theorem ExecEffect.sent_some {i : Instr} {s t : State} (h : ExecEffect i s t) : ∃ more, Sent more s t := by
  cases h with
  | sent | requested => exact ⟨_, rfl, rfl⟩
  | crcOnly | built | started | decoded | arrived => exact ⟨[], sent_nil rfl rfl⟩

/-- The receiver sends nothing. -/
theorem RxEffect.sent_nothing {r : Receiver} {s t : State} (h : RxEffect r s t) : Sent [] s t := by
  cases h <;> exact sent_nil rfl rfl

theorem BlockEffect.sent_nothing {s t : State} (h : BlockEffect s t) : Sent [] s t := by
  cases h with
  | receiving r t ha hr => exact hr.sent_nothing
  | idle | armed | noTransport => exact sent_nil rfl rfl

/-- Of the acts only a reset moves the mark. -/
theorem StepEffect.sent_some {s t : State} (h : StepEffect s t) (hno : ∀ rest, s.schedule ≠ .reset :: rest) :
    ∃ more, Sent more s t := by
  cases h with
  | block rest t hs hb => exact ⟨[], hb.sent_nothing⟩
  | ran c bytes more rest i t hs hf hd he => exact (exec_effect he).sent_some
  | arrived | advanced => exact ⟨[], sent_nil rfl rfl⟩
  | wasReset rest hs => exact absurd hs (hno rest)

theorem step_reset {s : State} {rest : List Event} (hv : s.params.valid = true) (hs : s.schedule = .reset :: rest) :
    step s = .next (applyReset { s with schedule := rest }) :=
  (step_eq_nextAct hv).trans (nextAct_reset hs)

/-- Settles O15: a reset sends nothing and moves the mark to the end of the stream; every other act sends some bytes and
leaves the mark. -/
theorem transmitStreamOnlyGrows : Obligations.TransmitStreamOnlyGrows := by
  unfold Obligations.TransmitStreamOnlyGrows
  intro s t h
  obtain ⟨hv, heffect⟩ := step_effect h
  by_cases hreset : ∃ rest, s.schedule = .reset :: rest
  · obtain ⟨rest, hs⟩ := hreset
    rw [step_reset hv hs] at h
    cases h
    exact ⟨[], (List.append_nil _).symm, fun _ _ => ⟨rfl, sentSinceReset_applyReset _⟩, fun hno => absurd hs (hno rest)⟩
  · have hno (rest : List Event) : s.schedule ≠ .reset :: rest := fun hs => hreset ⟨rest, hs⟩
    obtain ⟨more, hsent⟩ := heffect.sent_some hno
    exact ⟨more, hsent.1, fun rest hs => absurd hs (hno rest), fun _ hinv => hsent.sentSinceReset_eq hinv.mark_inside⟩

/-! ## The receive queue -/

/-- Bytes were appended at the queue's end, or its oldest byte was taken. -/
def QueueMoved (s t : State) : Prop := (∃ more, t.rxQueue = s.rxQueue ++ more) ∨ ∃ b, s.rxQueue = b :: t.rxQueue

theorem queueMoved_of_eq {s t : State} (h : t.rxQueue = s.rxQueue) : QueueMoved s t :=
  .inl ⟨[], h.trans (List.append_nil _).symm⟩

theorem ExecEffect.queueMoved {i : Instr} {s t : State} (h : ExecEffect i s t) : QueueMoved s t := by
  cases h with
  | arrived bs => exact .inl ⟨bs, rfl⟩
  | crcOnly | built | sent | requested | started | decoded => exact queueMoved_of_eq rfl

/-- A receiver step takes the oldest byte, unless its deadline has passed or the queue is empty. -/
theorem RxEffect.queueMoved {r : Receiver} {s t : State} (h : RxEffect r s t) : QueueMoved s t := by
  cases h with
  | expired | waited => exact queueMoved_of_eq rfl
  | dropped b q hs hq | opened b q kind hs hq | lengthByte b q hs hq | lengthDone b q hs hq | tooLong b q len hs hq
  | stored b q hs hq | discarded b q hs hq | assembled b q st res k m v hs hq => exact .inr ⟨b, hq⟩

theorem BlockEffect.queueMoved {s t : State} (h : BlockEffect s t) : QueueMoved s t := by
  cases h with
  | receiving r t ha hr => exact hr.queueMoved
  | idle | armed | noTransport => exact queueMoved_of_eq rfl

theorem StepEffect.queueMoved {s t : State} (h : StepEffect s t) : QueueMoved s t := by
  cases h with
  | block rest t hs hb => exact hb.queueMoved
  | ran c bytes more rest i t hs hf hd he => exact (exec_effect he).queueMoved
  | arrived bs rest hs => exact .inl ⟨bs, rfl⟩
  | advanced | wasReset => exact queueMoved_of_eq rfl

/-- Settles O16: of the effects of a step, arrivals append to the queue, receiver steps take its oldest byte, and the rest,
a reset among them, leave it. -/
theorem receiveQueueIsFifo : Obligations.ReceiveQueueIsFifo := by
  unfold Obligations.ReceiveQueueIsFifo
  exact fun s t h => (step_effect h).2.queueMoved

end Sys2Proof.Machine
end

section
/-! PROOFS. The host port's encoding (30_encoding.md R70 to R72): the operation map and its argument records. -/
namespace Sys2Proof
open Machine

/-! ## The operation map -/

/-- The arms of `decodeHostArgs` name exactly the codes of `legalCodes`: a listed code is read as an operation of its own,
any other falls through all thirty arms. -/
theorem decodeHostArgs_cases (op : Byte) (l : List Byte) :
    (legalCodes.contains op = true ∧ ∀ c more, decodeHostArgs op l ≠ some (.illegal c, more)) ∨
    (legalCodes.contains op = false ∧ decodeHostArgs op l = some (.illegal op, l)) := by
  unfold decodeHostArgs
  split
  case h_31 => exact .inr ⟨by simp_all [legalCodes, ← BitVec.toNat_inj], rfl⟩
  all_goals
    rename_i hop
    exact .inl ⟨by simp [legalCodes, ← BitVec.toNat_inj, hop], by simp [Option.bind_eq_some_iff]⟩

theorem decodeHostArgs_of_unlisted {op : Byte} (h : legalCodes.contains op = false) (l : List Byte) :
    decodeHostArgs op l = some (.illegal op, l) := by
  rcases decodeHostArgs_cases op l with ⟨hlisted, -⟩ | ⟨-, hop⟩
  · cases h.symm.trans hlisted
  · exact hop

theorem decodeHostArgs_eq_illegal {op c : Byte} {l more : List Byte} (h : decodeHostArgs op l = some (.illegal c, more)) :
    c = op ∧ legalCodes.contains op = false := by
  rcases decodeHostArgs_cases op l with ⟨-, hne⟩ | ⟨hunlisted, hop⟩
  · exact absurd h (hne c more)
  · rw [hop] at h
    cases h
    exact ⟨rfl, hunlisted⟩

/-- The ranges of R72. -/
theorem unlisted_of_mem_ranges {op : Byte} :
    (op.toNat = 0x00 ∨ (0x05 ≤ op.toNat ∧ op.toNat ≤ 0x0F) ∨ (0x12 ≤ op.toNat ∧ op.toNat ≤ 0x1F) ∨
      (0x22 ≤ op.toNat ∧ op.toNat ≤ 0x2F) ∨ (0x39 ≤ op.toNat ∧ op.toNat ≤ 0x3E) ∨
      (0x43 ≤ op.toNat ∧ op.toNat ≤ 0x4F) ∨ (0x59 ≤ op.toNat ∧ op.toNat ≤ 0xFF)) →
    legalCodes.contains op = false := by
  revert op
  decide

/-- An illegal operation at the free host port writes `STATUS` and presents its error (R72, 60_exceptions.md R281). -/
theorem exec_illegal {s : State} (hidle : s.activity = .idle) (c : Byte) :
    exec (.illegal c) s = .next { s with status := 9, result := some (.error (.illegalOperation c)) } := by
  simp [exec, execIllegal, takeError, errorCode, ← hidle]

/-- Settles O8, from what `decodeHostArgs` does with listed and unlisted codes. -/
theorem unlistedCodesAreIllegal : Obligations.UnlistedCodesAreIllegal := by
  unfold Obligations.UnlistedCodesAreIllegal
  exact ⟨fun P op l hop => decodeHostArgs_of_unlisted (unlisted_of_mem_ranges hop) l,
    fun P op l more c h => decodeHostArgs_eq_illegal h, fun c s hidle => exec_illegal hidle c⟩

/-! ## The argument records -/

theorem decode_host (P : Params) (op : Byte) (l : List Byte) : decode P .host (op :: l) = decodeHostArgs op l := rfl

/-- Settles O4: an operation's record is read by the chain of its arguments' readers, each of which gives back what its
writer wrote and leaves the rest; an illegal code has no arguments. -/
theorem hostDecodeInvertsEncode : Obligations.HostDecodeInvertsEncode := by
  unfold Obligations.HostDecodeInvertsEncode
  intro P i more hwf hchannel
  cases i with
  | illegal c => exact decodeHostArgs_of_unlisted (by simpa [Instr.wellFormed] using hwf) more
  | crcInit | crcByte | encScan | readTelemetry | scanForControllers => rfl
  | frameShort | frameLong | payloadGetValues | payloadSetDuty | payloadSetCurrent | payloadSetCurrentBrake
  | payloadSetRpm | payloadForward | payloadSetChuckData | payloadPingCan | payloadOpenloop | payloadStop
  | replyTelemetry | replyScan => cases hchannel
  | crcBlock | crcCheck | frameBuild | frameSend | rxReceive | rxValidate | encGetValues | encOpenloop | encStop
  | encJoystick | encSetCurrent | encSetBrake | encSetRpm | encSetDuty | fwdWrap | decTelemetry | decScanReply
  | requestTelemetry | sendCurrent | sendBrakeCurrent | sendRpm | sendDuty | sendJoystick | runOpenloop | stop =>
    -- reader after writer for each argument: the `@[simp]` lemmas of Laws/Encoding.lean
    simp [encode, decode_host, decodeHostArgs]

end Sys2Proof
end

section
/-! PROOFS. Frames (30_encoding.md R74 to R76): their bytes, their decoding, and that they mark their own end. -/
namespace Sys2Proof
open Machine

/-! ## The form of a frame -/

/-- What follows the payload in both forms: the CRC and the stop marker. -/
def frameTrailer (P : Params) (p : List Byte) : List Byte := be16 (crc16 p) ++ [P.markerStop]

theorem frame_eq_short (P : Params) {p : List Byte} (h : p.length < shortLimit) :
    frame P p = P.markerA :: BitVec.ofNat 8 p.length :: (p ++ frameTrailer P p) := by
  simp [frame, frameHeader, frameTrailer, h]

theorem frame_eq_long (P : Params) {p : List Byte} (h : shortLimit ≤ p.length) :
    frame P p = P.markerB :: (be16 (BitVec.ofNat 16 p.length) ++ (p ++ frameTrailer P p)) := by
  simp [frame, frameHeader, frameTrailer, Nat.not_lt.mpr h]

/-! ## Bytes by index -/

theorem be16_ofNat (n : Nat) : be16 (BitVec.ofNat 16 n) = [BitVec.ofNat 8 (n / 256), BitVec.ofNat 8 (n % 256)] := by
  simp only [be16, List.cons.injEq, and_true, ← BitVec.toNat_inj, BitVec.extractLsb'_toNat, BitVec.toNat_ofNat,
    Nat.shiftRight_eq_div_pow]
  omega

/-- Settles O25: past the two or three bytes of its header, a frame is its payload and then the three bytes of its
trailer. -/
theorem frameBytesByIndex : Obligations.FrameBytesByIndex := by
  unfold Obligations.FrameBytesByIndex
  intro P p
  have hpayload (i : Nat) (hi : i < p.length) : (p ++ frameTrailer P p)[i]? = p[i]? := List.getElem?_append_left hi
  have htrailer (j : Nat) : (p ++ frameTrailer P p)[p.length + j]? = (frameTrailer P p)[j]? := by
    rw [List.getElem?_append_right (Nat.le_add_right _ _), Nat.add_sub_cancel_left]
  constructor
  · intro (hshort : p.length < shortLimit)
    have hlength := frame_length P p
    rw [if_pos hshort] at hlength
    rw [frame_eq_short P hshort] at hlength ⊢
    refine ⟨hlength, rfl, rfl, fun i hi => ?_, htrailer 0, htrailer 1, htrailer 2⟩
    rw [Nat.add_comm]
    exact hpayload i hi
  · intro (hlong : shortLimit ≤ p.length) _
    have hlength := frame_length P p
    rw [if_neg (Nat.not_lt.mpr hlong)] at hlength
    rw [frame_eq_long P hlong, be16_ofNat] at hlength ⊢
    refine ⟨hlength, rfl, rfl, rfl, fun i hi => ?_, htrailer 0, htrailer 1, htrailer 2⟩
    rw [Nat.add_comm]
    exact hpayload i hi

/-! ## Decoding -/

theorem toNat_ofNat_of_lt {w n : Nat} (h : n < 2 ^ w) : (BitVec.ofNat w n).toNat = n :=
  (BitVec.toNat_ofNat n w).trans (Nat.mod_eq_of_lt h)

theorem decodeFrameBody_append (P : Params) (p more : List Byte) :
    decodeFrameBody P p.length (p ++ frameTrailer P p ++ more) = some (p, more) := by
  rw [List.append_assoc, decodeFrameBody, readRaw_append]
  simp only [Option.bind_some, frameTrailer, expectBytes_append, Option.map_some]

theorem decodeFrame_short (P : Params) {p : List Byte} (h : p.length < shortLimit) (more : List Byte) :
    decodeFrame P (frame P p ++ more) = some (.frameShort p, more) := by
  have hn : (BitVec.ofNat 8 p.length).toNat = p.length := toNat_ofNat_of_lt h
  simp only [frame_eq_short P h, List.cons_append, decodeFrame, if_true, readByte_cons, Option.bind_some, hn,
    decodeFrameBody_append, Option.map_some]

theorem decodeFrame_long {P : Params} (hmarkers : P.markerA ≠ P.markerB) {p : List Byte} (h : shortLimit ≤ p.length)
    (hmax : p.length ≤ maxPayload) (more : List Byte) :
    decodeFrame P (frame P p ++ more) = some (.frameLong p, more) := by
  have hn : (BitVec.ofNat 16 p.length).toNat = p.length := toNat_ofNat_of_lt (Nat.lt_succ_of_le hmax)
  rw [frame_eq_long P h, List.cons_append, List.append_assoc]
  simp only [decodeFrame, if_neg hmarkers.symm, if_true, readWord16_be16, Option.bind_some, hn,
    if_neg (Nat.not_lt.mpr h), decodeFrameBody_append, Option.map_some]

theorem Params.markers_ne_of_valid {P : Params} (h : P.valid = true) : P.markerA ≠ P.markerB :=
  ((illegalInstantiationsAreRefused.1 P).1 h).1

/-- Settles O5: the start marker tells the two forms apart, and the length read is the payload's. -/
theorem frameDecodeInvertsEncode : Obligations.FrameDecodeInvertsEncode := by
  unfold Obligations.FrameDecodeInvertsEncode
  intro P i more hvalid hwf hchannel
  cases i with
  | frameShort p => exact decodeFrame_short P (by simpa [Instr.wellFormed] using hwf) more
  | frameLong p =>
    obtain ⟨hlong, hmax⟩ : shortLimit ≤ p.length ∧ p.length ≤ maxPayload := by simpa [Instr.wellFormed] using hwf
    exact decodeFrame_long (Params.markers_ne_of_valid hvalid) hlong hmax more
  | _ => cases hchannel

/-! ## Self-delimitation -/

/-- The frame unit that carries a payload, in the form its length asks for. -/
def frameUnit (p : List Byte) : Instr := if p.length < shortLimit then .frameShort p else .frameLong p

theorem frameUnit_injective : Function.Injective frameUnit := by
  intro p q h
  unfold frameUnit at h
  split at h <;> split at h <;> cases h <;> rfl

theorem decodeFrame_frame {P : Params} (hmarkers : P.markerA ≠ P.markerB) {p : List Byte} (hp : p.length ≤ maxPayload)
    (more : List Byte) : decodeFrame P (frame P p ++ more) = some (frameUnit p, more) := by
  unfold frameUnit
  split
  case isTrue h => exact decodeFrame_short P h more
  case isFalse h => exact decodeFrame_long hmarkers (Nat.not_lt.mp h) hp more

/-- Settles O26: the two frames decode from the same bytes, to a unit that holds the payload and to the bytes after it. -/
theorem framesAreSelfDelimiting : Obligations.FramesAreSelfDelimiting := by
  unfold Obligations.FramesAreSelfDelimiting
  intro P p q x y hvalid hp hq h
  have hmarkers := Params.markers_ne_of_valid hvalid
  have hunits : some (frameUnit p, x) = some (frameUnit q, y) := by
    rw [← decodeFrame_frame hmarkers hp x, h, decodeFrame_frame hmarkers hq y]
  obtain ⟨hpq, hxy⟩ := Prod.mk.inj (Option.some.inj hunits)
  exact ⟨frameUnit_injective hpq, hxy⟩

end Sys2Proof
end

section
/-! PROOFS. Telemetry fields, payloads and replies (30_encoding.md R79 to R84): their values and their decoding. -/
namespace Sys2Proof
open Machine

/-! ## Two's-complement fields -/

theorem foldl_be16 (v : BitVec 16) : (be16 v).foldl (fun n b => n * 256 + b.toNat) 0 = v.toNat := by
  have hv := v.isLt
  simp only [be16, List.foldl, BitVec.extractLsb'_toNat, Nat.shiftRight_eq_div_pow]
  omega

theorem foldl_be32 (v : BitVec 32) : (be32 v).foldl (fun n b => n * 256 + b.toNat) 0 = v.toNat := by
  have hv := v.isLt
  simp only [be32, List.foldl, BitVec.extractLsb'_toNat, Nat.shiftRight_eq_div_pow]
  omega

/-- The two's-complement value of a word of `n` bytes, from its unsigned value. -/
theorem toInt_eq_of_toNat {n u : Nat} {v : BitVec (8 * n)} (h : u = v.toNat) :
    v.toInt = if 2 * (u : Int) < 256 ^ n then (u : Int) else u - 256 ^ n := by
  rw [h, BitVec.toInt_eq_toNat_cond, pow_mul]
  norm_cast

/-- Settles O46: a field's bytes are those of its 16 or 32 bits. -/
theorem telemetryFieldsAreSigned : Obligations.TelemetryFieldsAreSigned := by
  unfold Obligations.TelemetryFieldsAreSigned
  intro m f
  cases f with
  | dutyCycleNow | inpVoltage => exact ⟨rfl, toInt_eq_of_toNat (n := 2) (foldl_be16 _)⟩
  | avgMotorCurrent | avgInputCurrent | rpm | ampHours | ampHoursCharged | tachometer | tachometerAbs =>
    exact ⟨rfl, toInt_eq_of_toNat (n := 4) (foldl_be32 _)⟩

/-! ## The telemetry reply -/

theorem Layout.offset_add_bytes_le_minLen (L : Layout) (f : TelemField) : L.offset f + f.bytes ≤ L.minLen :=
  List.le_max_of_le' 0 (List.mem_map_of_mem f.mem_all) le_rfl

/-- A search finds the only element that passes its test. -/
theorem find?_eq_some_of_unique {α : Type} {p : α → Bool} {l : List α} {a : α} (ha : a ∈ l) (hp : p a = true)
    (hunique : ∀ b, p b = true → b = a) : l.find? p = some a := by
  obtain ⟨b, hb⟩ := Option.isSome_iff_exists.1 (List.find?_isSome.2 ⟨a, ha, hp⟩)
  rw [hb, hunique b (List.find?_some hb)]

/-- In a legal layout a byte of a field lies in no other field (00_scope.md R8). -/
theorem Layout.find?_field {L : Layout} (hL : L.valid = true) (f : TelemField) {k : Nat} (hk : k < f.bytes) :
    TelemField.all.find? (fun g => L.offset g ≤ L.offset f + k && L.offset f + k < L.offset g + g.bytes) = some f := by
  obtain ⟨-, hapart⟩ := L.valid_iff.1 hL
  refine find?_eq_some_of_unique f.mem_all (by simp [hk]) fun g hg => ?_
  simp only [Bool.and_eq_true, decide_eq_true_eq] at hg
  by_contra hne
  have hdisjoint := (L.apart_iff f g).1 (hapart f g (Ne.symm hne))
  exact hdisjoint k (L.offset f + k - L.offset g) hk (by omega) (by omega)

theorem byteAt_telemReply {L : Layout} (hL : L.valid = true) (id : Byte) (t : Telem) (f : TelemField) {k : Nat}
    (hk : k < f.bytes) : byteAt (telemReply id L t) (L.offset f + k) = byteAt (telemFieldBytes t f) k := by
  have hpos := (L.valid_iff.1 hL).1 f
  have hlt : L.offset f + k < L.minLen := lt_of_lt_of_le (by omega) (L.offset_add_bytes_le_minLen f)
  have hbyte : telemReplyByte id L t (L.offset f + k) = byteAt (telemFieldBytes t f) k := by
    rw [telemReplyByte, if_neg (by omega), Layout.find?_field hL f hk]
    simp only [Nat.add_sub_cancel_left]
  simp [telemReply, byteAt, hlt, hbyte]

section
variable {L : Layout} (hL : L.valid = true) (id : Byte) (t : Telem) (f : TelemField)
include hL

theorem getbe16_telemReply (hf : f.bytes = 2) {v : BitVec 16} (hv : telemFieldBytes t f = be16 v) :
    getbe16 (telemReply id L t) (L.offset f) = v := by
  have hbyte (k : Nat) (hk : k < 2) : byteAt (telemReply id L t) (L.offset f + k) = byteAt (be16 v) k :=
    hv ▸ byteAt_telemReply hL id t f (hf.symm ▸ hk)
  have hfirst := hbyte 0 (by decide)
  rw [Nat.add_zero] at hfirst
  rw [getbe16, hfirst, hbyte 1 (by decide)]
  exact ofBe16_extract v

theorem getbe32_telemReply (hf : f.bytes = 4) {v : BitVec 32} (hv : telemFieldBytes t f = be32 v) :
    getbe32 (telemReply id L t) (L.offset f) = v := by
  have hbyte (k : Nat) (hk : k < 4) : byteAt (telemReply id L t) (L.offset f + k) = byteAt (be32 v) k :=
    hv ▸ byteAt_telemReply hL id t f (hf.symm ▸ hk)
  have hfirst := hbyte 0 (by decide)
  rw [Nat.add_zero] at hfirst
  rw [getbe32, hfirst, hbyte 1 (by decide), hbyte 2 (by decide), hbyte 3 (by decide)]
  exact ofBe32_extract v

theorem telemOfPayload_telemReply : telemOfPayload L (telemReply id L t) = t := by
  have h16 (f : TelemField) := getbe16_telemReply hL id t f
  have h32 (f : TelemField) := getbe32_telemReply hL id t f
  cases t
  rw [telemOfPayload, Telem.mk.injEq]
  exact ⟨h32 .avgMotorCurrent rfl rfl, h32 .avgInputCurrent rfl rfl, h16 .dutyCycleNow rfl rfl, h32 .rpm rfl rfl,
    h16 .inpVoltage rfl rfl, h32 .ampHours rfl rfl, h32 .ampHoursCharged rfl rfl, h32 .tachometer rfl rfl,
    h32 .tachometerAbs rfl rfl⟩

end

theorem telemReply_length (id : Byte) (L : Layout) (t : Telem) : (telemReply id L t).length = L.minLen := by
  simp [telemReply]

theorem decodeReply_telemetry {P : Params} {l : List Byte} (hid : l.head? = some P.idGetValues)
    (hlen : l.length = P.layout.minLen) : decodeReply P l = some (.replyTelemetry (telemOfPayload P.layout l), []) := by
  cases l with
  | nil => cases hid
  | cons i l =>
    cases hid
    rw [decodeReply, if_pos rfl, if_pos hlen.ge, ← hlen, List.drop_length]

/-! ## Payloads -/

/-- The identifiers in the order opposite to that of the decoder's tests: each differs from those tested before it. -/
theorem Params.payloadIds_nodup {P : Params} (h : P.idsDistinct = true) :
    [P.idStop, P.idOpenloop, P.idPingCan, P.idSetChuckData, P.idForward, P.idSetRpm, P.idSetCurrentBrake, P.idSetCurrent,
      P.idSetDuty, P.idGetValues].Nodup := by
  have hids : (P.idForward :: P.idPingCan :: P.innerIds).Nodup := of_decide_eq_true h
  rw [List.nodup_iff_count_le_one] at hids ⊢
  intro a
  have hcount := hids a
  simp only [Params.innerIds, List.count_cons, List.count_nil] at hcount ⊢
  omega

@[simp] theorem readBool_buttonByte (b : Bool) (r : List Byte) : readBool (buttonByte b :: r) = some (b, r) :=
  readBool_boolArg b r

theorem decodePayload_encode {P : Params} (hids : P.idsDistinct = true) {i : Instr} (hwf : i.wellFormed = true)
    (hchannel : i.channel = .payload) (more : List Byte) : decodePayload P (encode P i ++ more) = some (i, more) := by
  have hne := P.payloadIds_nodup hids
  simp only [List.nodup_cons, List.mem_cons, not_or] at hne
  cases i with
  | payloadGetValues => simp [encode, getValuesPayload, decodePayload]
  | payloadSetDuty => simp [encode, setDutyPayload, decodePayload, hne]
  | payloadSetCurrent => simp [encode, setCurrentPayload, decodePayload, hne]
  | payloadSetCurrentBrake => simp [encode, setBrakePayload, decodePayload, hne]
  | payloadSetRpm => simp [encode, setRpmPayload, decodePayload, hne]
  | payloadForward a inner =>
    have hlen : inner.length ≤ 255 := of_decide_eq_true hwf
    have hn : (BitVec.ofNat 8 inner.length).toNat = inner.length :=
      toNat_ofNat_of_lt (Nat.lt_succ_of_le hlen)
    simp [encode, envelope, decodePayload, hne, hn, -BitVec.toNat_ofNat]
  | payloadSetChuckData => simp [encode, chuckPayload, decodePayload, hne]
  | payloadPingCan => simp [encode, scanPayload, decodePayload, hne]
  | payloadOpenloop => simp [encode, openloopPayload, decodePayload, hne]
  | payloadStop => simp [encode, stopPayload, decodePayload, hne]
  | _ => cases hchannel

theorem decodeReply_encode {P : Params} (hL : P.layout.valid = true) (hids : P.idsDistinct = true) {i : Instr}
    (hchannel : i.channel = .reply) : decodeReply P (encode P i) = some (i, []) := by
  cases i with
  | replyTelemetry t =>
    have hid : (telemetryReplyPayload P t).head? = some P.idGetValues := Laws.FirstByte.replyTelemetry t rfl P
    rw [encode, decodeReply_telemetry hid (telemReply_length _ _ t), telemetryReplyPayload, telemOfPayload_telemReply hL]
  | replyScan addrs =>
    have hne := P.payloadIds_nodup hids
    simp only [List.nodup_cons, List.mem_cons, not_or] at hne
    simp [encode, scanReplyPayload, decodeReply, hne]
  | _ => cases hchannel

theorem Params.layout_valid {P : Params} (h : P.valid = true) : P.layout.valid = true := by
  rw [Params.valid, Bool.and_eq_true] at h
  exact h.2

/-- Settles O6: the identifier picks the format, since the identifiers differ, and the telemetry fields, since they share
no byte, read back at their offsets. -/
theorem payloadDecodeInvertsEncode : Obligations.PayloadDecodeInvertsEncode := by
  unfold Obligations.PayloadDecodeInvertsEncode
  intro P i hvalid hids hwf hchannel
  rcases hchannel with hc | hc
  · have h := decodePayload_encode hids hwf hc []
    rw [List.append_nil] at h
    rw [hc]
    exact h
  · rw [hc]
    exact decodeReply_encode (Params.layout_valid hvalid) hids hc

/-! ## Sample words -/

/-- Settles O7: the decoder runs on the eight words. -/
theorem sampleWordsDecode : Obligations.SampleWordsDecode := by
  unfold Obligations.SampleWordsDecode
  decide

end Sys2Proof
end

section
/-! PROOFS. The wire rows as arrivals (20_memory.md R58). -/
namespace Sys2Proof.Machine

theorem arriveFrameOf_eq {p : List Byte} (hp : p.length ≤ 65535) (s : State) :
    arriveFrameOf p s = .next { s with rxQueue := s.rxQueue ++ frame s.params p } := if_pos hp

/-- Settles O58: the meaning of each row is `arriveFrameOf` of its payload. -/
theorem wireUnitsArrive : Obligations.WireUnitsArrive := by
  unfold Obligations.WireUnitsArrive
  intro s i p hp hrow
  suffices hexec : exec i s = arriveFrameOf p s from hexec.trans (arriveFrameOf_eq hp s)
  rcases hrow with rfl | rfl | hpayload
  · rfl
  · rfl
  · rcases hpayload with ⟨rfl, h⟩ | ⟨d, rfl, h⟩ | ⟨c, rfl, h⟩ | ⟨c, rfl, h⟩ | ⟨r, rfl, h⟩ | ⟨a, inner, rfl, h⟩ |
      ⟨x, y, b, c, rfl, h⟩ | ⟨rfl, h⟩ | ⟨c, e, rfl, h⟩ | ⟨rfl, h⟩ | ⟨m, rfl, h⟩ | ⟨l, rfl, h⟩
    all_goals
      rw [h]
      rfl

end Sys2Proof.Machine
end

section
/-! PROOFS. The checksum engine of 40_crc.md R100 to R106: a bit step is linear and loses nothing, so a byte step and the
byte iteration are linear and lose nothing either, and an error in one byte shows in the checksum. -/
namespace Sys2Proof.Machine

/-! ## The bit step -/

theorem crcBit_xor (c d : BitVec 16) : crcBit (c ^^^ d) = crcBit c ^^^ crcBit d := by
  simp only [crcBit, BitVec.getLsbD_xor, BitVec.shiftLeft_xor_distrib]
  cases c.getLsbD 15 <;> cases d.getLsbD 15
  case true.true =>
    calc c <<< 1 ^^^ d <<< 1
      _ = c <<< 1 ^^^ d <<< 1 ^^^ (crcPoly ^^^ crcPoly) := by rw [BitVec.xor_self, BitVec.xor_zero]
      _ = (c <<< 1 ^^^ crcPoly) ^^^ (d <<< 1 ^^^ crcPoly) := by ac_rfl
  case true.false =>
    change c <<< 1 ^^^ d <<< 1 ^^^ crcPoly = (c <<< 1 ^^^ crcPoly) ^^^ d <<< 1
    ac_rfl
  case false.true => exact BitVec.xor_assoc ..
  case false.false => rfl

theorem crcBit_iterate_xor (n : Nat) (c d : BitVec 16) : crcBit^[n] (c ^^^ d) = crcBit^[n] c ^^^ crcBit^[n] d := by
  induction n with
  | zero => rfl
  | succ n ih => simp only [Function.iterate_succ_apply', ih, crcBit_xor]

/-- The bit shifted out comes back as bit 0, which `CRC_POLY` has and a left shift clears. -/
theorem getLsbD_crcBit_zero (c : BitVec 16) : (crcBit c).getLsbD 0 = c.getLsbD 15 := by
  have hpoly : crcPoly.getLsbD 0 = true := by decide
  unfold crcBit
  split
  case isTrue htop =>
    rw [BitVec.getLsbD_xor, hpoly, htop]
    simp
  case isFalse htop =>
    rw [Bool.eq_false_of_not_eq_true htop]
    simp

theorem crcBit_injective : Function.Injective crcBit := by
  intro c d h
  have htop : c.getLsbD 15 = d.getLsbD 15 := by rw [← getLsbD_crcBit_zero, h, getLsbD_crcBit_zero]
  have hshift : c <<< 1 = d <<< 1 := by
    unfold crcBit at h
    rw [htop] at h
    split at h
    case isTrue => exact (BitVec.xor_left_inj crcPoly).1 h
    case isFalse => exact h
  refine BitVec.eq_of_getLsbD_eq fun i hi => ?_
  rcases Nat.lt_or_ge i 15 with hlow | hhigh
  · have hbit := congrArg (·.getLsbD (i + 1)) hshift
    simpa [hi, show i + 1 < 16 by omega] using hbit
  · obtain rfl : i = 15 := by omega
    exact htop

/-- No bit of a byte in the low half of the register is shifted out within eight bit steps. -/
theorem crcBit_iterate_zeroExtend (b : Byte) {n : Nat} (hn : n ≤ 8) :
    crcBit^[n] (b.zeroExtend 16) = b.zeroExtend 16 <<< n := by
  induction n with
  | zero => simp
  | succ n ih =>
    have htop : (b.zeroExtend 16 <<< n).getLsbD 15 = false := by
      simp [BitVec.getLsbD_of_ge b (15 - n) (by omega)]
    rw [Function.iterate_succ_apply', ih (by omega), crcBit, htop, BitVec.shiftLeft_add]
    rfl

/-! ## The byte step -/

theorem crcByte_eq_iterate (c : BitVec 16) (b : Byte) : crcByte c b = crcBit^[8] (c ^^^ (b.zeroExtend 16 <<< 8)) := rfl

theorem crcByte_xor (c d : BitVec 16) (a b : Byte) : crcByte (c ^^^ d) (a ^^^ b) = crcByte c a ^^^ crcByte d b := by
  have henter : (c ^^^ d) ^^^ ((a ^^^ b).zeroExtend 16 <<< 8) =
      (c ^^^ (a.zeroExtend 16 <<< 8)) ^^^ (d ^^^ (b.zeroExtend 16 <<< 8)) := by
    rw [BitVec.zeroExtend_eq_setWidth, BitVec.setWidth_xor, BitVec.shiftLeft_xor_distrib]
    ac_rfl
  rw [crcByte_eq_iterate, henter, crcBit_iterate_xor]
  rfl

theorem crcByte_injective_register (b : Byte) : Function.Injective (crcByte · b) := fun _ _ h =>
  (BitVec.xor_left_inj _).1 (crcBit_injective.iterate 8 h)

theorem crcByte_injective_byte (c : BitVec 16) : Function.Injective (crcByte c) := by
  intro a b h
  have hshift : a.zeroExtend 16 <<< 8 = b.zeroExtend 16 <<< 8 :=
    (BitVec.xor_right_inj c).1 (crcBit_injective.iterate 8 h)
  refine BitVec.eq_of_getLsbD_eq fun i hi => ?_
  have hbit := congrArg (·.getLsbD (i + 8)) hshift
  simpa [show i + 8 < 16 by omega, show i < 16 by omega] using hbit

/-- A byte that equals the register's upper half cancels it; the lower half moves up. -/
theorem crcByte_upper (c : BitVec 16) : crcByte c (c.extractLsb' 8 8) = (c.extractLsb' 0 8).zeroExtend 16 <<< 8 := by
  have hlower : c ^^^ ((c.extractLsb' 8 8).zeroExtend 16 <<< 8) = (c.extractLsb' 0 8).zeroExtend 16 := by
    refine BitVec.eq_of_getLsbD_eq fun i hi => ?_
    rcases Nat.lt_or_ge i 8 with hlow | hhigh
    · simp [hi, hlow]
    · simp [hi, show ¬i < 8 by omega, show i - 8 < 8 by omega, show 8 + (i - 8) = i by omega]
  rw [crcByte_eq_iterate, hlower, crcBit_iterate_zeroExtend _ le_rfl]

theorem crcByte_zeroExtend_shiftLeft (b : Byte) : crcByte (b.zeroExtend 16 <<< 8) b = 0 := by
  rw [crcByte_eq_iterate, BitVec.xor_self]
  rfl

/-! ## The byte iteration -/

@[simp] theorem crcFold_nil (c : BitVec 16) : crcFold c [] = c := rfl

@[simp] theorem crcFold_cons (c : BitVec 16) (b : Byte) (x : List Byte) :
    crcFold c (b :: x) = crcFold (crcByte c b) x := rfl

theorem crcFold_append (c : BitVec 16) (x y : List Byte) : crcFold c (x ++ y) = crcFold (crcFold c x) y :=
  List.foldl_append

theorem crc16_append (x y : List Byte) : crc16 (x ++ y) = crcFold (crc16 x) y := by
  simp only [crc16_eq_crcFold, crcFold_append]

theorem crcFold_xor {x y : List Byte} (h : x.length = y.length) (c d : BitVec 16) :
    crcFold (c ^^^ d) (List.zipWith (· ^^^ ·) x y) = crcFold c x ^^^ crcFold d y := by
  induction x generalizing y c d with
  | nil =>
    cases y with
    | nil => rfl
    | cons => cases h
  | cons a x ih =>
    cases y with
    | nil => cases h
    | cons b y => simp only [List.zipWith_cons_cons, crcFold_cons, crcByte_xor, ih (Nat.succ.inj h)]

theorem crcFold_injective (x : List Byte) : Function.Injective (crcFold · x) := by
  induction x with
  | nil => exact Function.injective_id
  | cons b x ih => exact ih.comp (crcByte_injective_register b)

/-- An error in one byte shows in the register, whatever bytes follow it. -/
theorem crcFold_set_ne {x : List Byte} {j : Nat} (hj : j < x.length) {b : Byte} (hb : b ≠ x[j]) (c : BitVec 16) :
    crcFold c (x.set j b) ≠ crcFold c x := by
  induction x generalizing j c with
  | nil => cases hj
  | cons a x ih =>
    cases j with
    | zero => exact fun h => hb (crcByte_injective_byte c (crcFold_injective x h))
    | succ j => exact ih (Nat.lt_of_succ_lt_succ hj) hb (crcByte c a)

theorem crc16_set_ne {p : List Byte} {j : Nat} (hj : j < p.length) {b : Byte} (hb : b ≠ p[j]) :
    crc16 (p.set j b) ≠ crc16 p := by
  simp only [crc16_eq_crcFold]
  exact crcFold_set_ne hj hb 0

/-- The register followed by its own bytes: each byte cancels the half that holds it. -/
theorem crcFold_be16 (c : BitVec 16) : crcFold c (be16 c) = 0 := by
  rw [be16, crcFold_cons, crcByte_upper, crcFold_cons, crcByte_zeroExtend_shiftLeft, crcFold_nil]

theorem crc16_append_be16 (x : List Byte) : crc16 (x ++ be16 (crc16 x)) = 0 :=
  (crc16_append x _).trans (crcFold_be16 _)

/-- Settles O20: the final XOR is with zero, so `crc16` is the iteration from zero, a fold. -/
theorem crcOfConcatenation : Obligations.CrcOfConcatenation := by
  unfold Obligations.CrcOfConcatenation
  exact crc16_append

/-- Settles O21: the initial register is zero, the exclusive-or of two zeros, and every byte step is linear. -/
theorem crcIsLinear : Obligations.CrcIsLinear := by
  unfold Obligations.CrcIsLinear
  intro x y h
  simp only [crc16_eq_crcFold]
  exact crcFold_xor h 0 0

/-! ## The operations -/

theorem exec_crcCheck (x : List Byte) (e : BitVec 16) (s : State) :
    exec (.crcCheck x e) s = .next (ended 0 (.isMatch (decide (crc16 x = e))) { s with crc := crc16 x }) := rfl

theorem exec_rxValidate_of_ne {p : List Byte} {c : BitVec 16} (h : crc16 p ≠ c) (s : State) :
    exec (.rxValidate p c) s = .next (endedWith 4 (.crcMismatch c (crc16 p)) { s with crc := crc16 p }) := by
  have hraised : rxValidate p c s = .raised (.crcMismatch c (crc16 p)) { s with crc := crc16 p } := if_neg h
  change (rxValidate p c s).finish .payload = _
  rw [hraised]
  rfl

/-- Settles O19: each operation is one register write before `endOk`. -/
theorem crcOperationsComplete : Obligations.CrcOperationsComplete := by
  unfold Obligations.CrcOperationsComplete
  exact fun s => ⟨⟨Laws.FirstByte.crcInit rfl s.params, rfl⟩, fun b => ⟨Laws.FirstByte.crcByte b rfl s.params, rfl⟩,
    fun bs => ⟨Laws.FirstByte.crcBlock bs rfl s.params, rfl⟩⟩

/-- Settles O22: a sequence and its own checksum leave the register at zero, and zero is what it is checked against. -/
theorem crcCheckAndResidue : Obligations.CrcCheckAndResidue := by
  unfold Obligations.CrcCheckAndResidue
  refine fun s x => ⟨fun e => ⟨Laws.FirstByte.crcCheck x e rfl s.params, exec_crcCheck x e s⟩, ?_⟩
  rw [exec_crcCheck, crc16_append_be16]
  rfl

theorem xor_one_shiftLeft_ne {w k : Nat} (hk : k < w) (v : BitVec w) : v ^^^ (1#w <<< k) ≠ v := by
  rw [← BitVec.twoPow_eq]
  intro h
  have hbit := congrArg (·.getLsbD k) h
  simp [hk] at hbit

/-- Settles O23: an error in one byte of the payload changes its checksum, an error in the checksum is a difference. -/
theorem singleBitErrorDetected : Obligations.SingleBitErrorDetected := by
  unfold Obligations.SingleBitErrorDetected
  refine fun p s => ⟨fun j k hj hk => ?_, fun k hk => ?_⟩
  · have hpayload := crc16_set_ne hj (xor_one_shiftLeft_ne hk p[j])
    exact ⟨_, exec_rxValidate_of_ne hpayload s, rfl⟩
  · have hfield := xor_one_shiftLeft_ne hk (crc16 p)
    exact ⟨_, exec_rxValidate_of_ne hfield.symm s, rfl⟩

end Sys2Proof.Machine
end

section
/-! PROOFS. The frame encoder of 41_frame_encoder.md R121 and R122: one equation per way `FRAME_BUILD` and `FRAME_SEND`
end, then what the state after each holds. -/
namespace Sys2Proof.Machine

variable {p : List Byte} {s : State}

/-! ## `FRAME_BUILD` -/

theorem frameBuild_of_gt (hp : maxPayload < p.length) (s : State) :
    frameBuild p s = .raised (.encodingTooLarge p.length) s := if_pos hp

theorem frameBuild_of_le (hp : p.length ≤ maxPayload) (s : State) :
    frameBuild p s = .ok (frame s.params p) (loadFrame p s) := if_neg (Nat.not_lt.mpr hp)

theorem exec_frameBuild (p : List Byte) (s : State) : exec (.frameBuild p) s = (frameBuild p s).finish .frame := rfl

theorem exec_frameBuild_of_gt (hp : maxPayload < p.length) (s : State) :
    exec (.frameBuild p) s = .next (endedWith 1 (.encodingTooLarge p.length) s) := by
  rw [exec_frameBuild, frameBuild_of_gt hp]
  rfl

theorem exec_frameBuild_of_le (hp : p.length ≤ maxPayload) (s : State) :
    exec (.frameBuild p) s = .next (ended 0 (.frame (frame s.params p)) (loadFrame p s)) := by
  rw [exec_frameBuild, frameBuild_of_le hp]
  rfl

/-- `TXLEN` counts the loaded frame without wrapping. -/
theorem toNat_txlen_loadFrame (hp : p.length ≤ maxPayload) (s : State) :
    (loadFrame p s).txlen.toNat = (frame s.params p).length := by
  rw [loadFrame_txlen, toNat_ofNat_of_le_frame (frame_length_le s.params hp)]

/-- Settles O27: above the bound the error leaves the state alone; up to it the state is the one `loadFrame` leaves, and
even the longest frame fits `TXLEN`, and `TXBUF` with the byte past its end. -/
theorem frameBuildCompletes : Obligations.FrameBuildCompletes := by
  unfold Obligations.FrameBuildCompletes
  exact fun p s => ⟨Laws.FirstByte.frameBuild p rfl s.params, fun hp => exec_frameBuild_of_gt hp s, fun hp =>
    ⟨_, exec_frameBuild_of_le hp s, rfl, toNat_txlen_loadFrame hp s, txbufRead_loadFrame hp s⟩⟩

/-! ## `FRAME_SEND` -/

theorem frameSend_of_absent (ht : s.transportPresent = false) (p : List Byte) :
    frameSend p s = .raised .transportUnavailable s := if_neg (ht ▸ Bool.false_ne_true)

theorem frameSend_of_gt (ht : s.transportPresent = true) (hp : maxPayload < p.length) :
    frameSend p s = .raised (.encodingTooLarge p.length) s := (if_pos ht).trans (if_pos hp)

theorem frameSend_of_le (ht : s.transportPresent = true) (hp : p.length ≤ maxPayload) :
    frameSend p s = .ok (frame s.params p, BitVec.ofNat 17 (txCountOf (frame s.params p) s)) (afterSend p s) :=
  (if_pos ht).trans (if_neg (Nat.not_lt.mpr hp))

theorem exec_frameSend (p : List Byte) (s : State) :
    exec (.frameSend p) s = (frameSend p s).finish fun r => .frameCount r.1 r.2 := rfl

theorem exec_frameSend_of_absent (ht : s.transportPresent = false) (p : List Byte) :
    exec (.frameSend p) s = .next (endedWith 6 .transportUnavailable s) := by
  rw [exec_frameSend, frameSend_of_absent ht]
  rfl

theorem exec_frameSend_of_gt (ht : s.transportPresent = true) (hp : maxPayload < p.length) :
    exec (.frameSend p) s = .next (endedWith 1 (.encodingTooLarge p.length) s) := by
  rw [exec_frameSend, frameSend_of_gt ht hp]
  rfl

theorem exec_frameSend_of_le (ht : s.transportPresent = true) (hp : p.length ≤ maxPayload) :
    exec (.frameSend p) s = .next (ended 0
      (.frameCount (frame s.params p) (BitVec.ofNat 17 (txCountOf (frame s.params p) s))) (afterSend p s)) := by
  rw [exec_frameSend, frameSend_of_le ht hp]
  rfl

/-- The sink accepts no more than it is offered (20_memory.md R57). -/
theorem txCountOf_le (f : List Byte) (s : State) : txCountOf f s ≤ f.length := Nat.min_le_right _ _

/-- The next answer in store, cut at the frame's length (20_memory.md R57). -/
theorem txCountOf_of_sinkAnswers {c : Nat} {l : List Nat} (h : s.sinkAnswers = c :: l) (f : List Byte) :
    txCountOf f s = min c f.length := by
  simp only [txCountOf, sinkAnswer, h]

/-- `TXCOUNT` counts the accepted bytes without wrapping. -/
theorem toNat_txcount_afterSend (hp : p.length ≤ maxPayload) (s : State) :
    (afterSend p s).txcount.toNat = txCountOf (frame s.params p) s :=
  toNat_ofNat_of_le_frame ((txCountOf_le _ s).trans (frame_length_le s.params hp))

/-- The write to the sink leaves `TXBUF` as `loadFrame` does. -/
theorem txbufRead_afterSend (hp : p.length ≤ maxPayload) (s : State) (i : Nat) :
    txbufRead (afterSend p s) i = if i < (frame s.params p).length then (frame s.params p)[i]? else txbufRead s i :=
  txbufRead_loadFrame hp s i

/-- Settles O28: each error leaves the state alone, the transport's first; otherwise the state is `afterSend`, and the
count is `txCountOf`, which the frame's length bounds. -/
theorem frameSendCompletes : Obligations.FrameSendCompletes := by
  unfold Obligations.FrameSendCompletes
  refine fun p s => ⟨Laws.FirstByte.frameSend p rfl s.params, fun ht => exec_frameSend_of_absent ht p,
    fun ht hp => exec_frameSend_of_gt ht hp, fun ht hp => ?_⟩
  exact ⟨txCountOf (frame s.params p) s, txCountOf_le _ s, fun _ _ h => txCountOf_of_sinkAnswers h _,
    _, exec_frameSend_of_le ht hp, rfl, toNat_txcount_afterSend hp s, txbufRead_afterSend hp s⟩

end Sys2Proof.Machine
end

section
/-! PROOFS. The frame receiver of 42_frame_receiver.md R141 to R153, one equation of `blockStep` per transition; then that
a receive ends (R157). -/
namespace Sys2Proof.Machine

/-! ## The operations -/

/-- The state in which `RX_RECEIVE` begins its loop (R141). -/
def searching (d : Nat) (s : State) : State :=
  { s with deadline := d, rxst := .seekStart, rxcnt := 0, activity := .receiving .rxReceive }

theorem exec_rxReceive (d : Nat) (s : State) : exec (.rxReceive d) s = execRxReceive d s := rfl

theorem exec_rxReceive_of_absent {s : State} (ht : s.transportPresent = false) (d : Nat) :
    exec (.rxReceive d) s = .next (endedWith 6 .transportUnavailable s) := by
  rw [exec_rxReceive, execRxReceive, startReceive, needTransport, if_neg (ht ▸ Bool.false_ne_true)]
  rfl

theorem exec_rxReceive_of_present {s : State} (ht : s.transportPresent = true) (d : Nat) :
    exec (.rxReceive d) s = .next (searching d s) := by
  rw [exec_rxReceive, execRxReceive, startReceive, needTransport, if_pos ht]
  rfl

/-- Settles O29: without a transport the first line raises, with one the receive starts. -/
theorem rxReceiveStarts : Obligations.RxReceiveStarts := by
  unfold Obligations.RxReceiveStarts
  exact fun d s => ⟨Laws.FirstByte.rxReceive d rfl s.params, fun ht => exec_rxReceive_of_absent ht d,
    fun ht => exec_rxReceive_of_present ht d⟩

theorem exec_rxValidate_of_eq {p : List Byte} {c : BitVec 16} (h : crc16 p = c) (s : State) :
    exec (.rxValidate p c) s = .next (ended 0 (.payload p) { s with crc := crc16 p }) := by
  have hok : rxValidate p c s = .ok p { s with crc := crc16 p } := if_pos h
  change (rxValidate p c s).finish .payload = _
  rw [hok]
  rfl

/-- Settles O37: the checksum is written before the comparison. -/
theorem rxValidateCompletes : Obligations.RxValidateCompletes := by
  unfold Obligations.RxValidateCompletes
  exact fun p c s => ⟨Laws.FirstByte.rxValidate p c rfl s.params, fun h => exec_rxValidate_of_eq h s,
    fun h => exec_rxValidate_of_ne h s⟩

/-! ## The length field -/

/-- `RXLEN` after a length byte (R146). -/
def lengthAfter (len : BitVec 16) (b : Byte) : BitVec 16 := (len <<< 8) ||| b.zeroExtend 16

/-- The upper byte of `RXLEN` is shifted out. -/
theorem toNat_lengthAfter (len : BitVec 16) (b : Byte) :
    (lengthAfter len b).toNat = (len.toNat * 256 + b.toNat) % 65536 := by
  have hb := b.isLt
  have hlow : (len <<< 8).toNat = (len.toNat % 256) <<< 8 := by
    rw [BitVec.toNat_shiftLeft, Nat.shiftLeft_eq, Nat.shiftLeft_eq]
    omega
  have hbyte : (b.zeroExtend 16).toNat = b.toNat := BitVec.toNat_setWidth_of_le (by decide)
  rw [lengthAfter, BitVec.toNat_or, hlow, hbyte, ← Nat.shiftLeft_add_eq_or_of_lt hb, Nat.shiftLeft_eq]
  omega

/-! ## One step of the receiver -/

/-- What a block step makes of a receiver step: the arms of `blockStep`. -/
def RxStep.outcome (r : Receiver) : RxStep → Host.Outcome State Fault Refusal
  | .wait s | .more s => .next s
  | .frame p c s => endReceive r p c s
  | .raised e s => .next (takeError e s)
  | .fault f => .fault f

/-- The three states in which a receiver step has a transition (R143). -/
def RxState.running (st : RxState) : Prop := st = .seekStart ∨ st = .readLength ∨ st = .accumulate

theorem rxStep_seekStart {s : State} (h : s.rxst = .seekStart) : rxStep s = rxWithByte s rxSeekStart := by
  unfold rxStep
  rw [h]

theorem rxStep_readLength {s : State} (h : s.rxst = .readLength) : rxStep s = rxWithByte s rxReadLength := by
  unfold rxStep
  rw [h]

theorem rxStep_accumulate {s : State} (h : s.rxst = .accumulate) : rxStep s = rxWithByte s rxAccumulate := by
  unfold rxStep
  rw [h]

theorem rxStep_running {s : State} (h : s.rxst.running) : ∃ k, rxStep s = rxWithByte s k := by
  rcases h with h | h | h
  · exact ⟨_, rxStep_seekStart h⟩
  · exact ⟨_, rxStep_readLength h⟩
  · exact ⟨_, rxStep_accumulate h⟩

theorem rxWithByte_cons {s : State} {b : Byte} {q : List Byte} (hd : s.clock < s.deadline) (hq : s.rxQueue = b :: q)
    (k : Byte → State → RxStep) : rxWithByte s k = k b { s with rxQueue := q } := by
  rw [rxWithByte, if_neg (Nat.not_le.mpr hd), hq]

section
variable {s : State} {r : Receiver} (ha : s.activity = .receiving r)
include ha

theorem blockStep_receiving : blockStep s = (rxStep s).outcome r := by
  unfold blockStep
  rw [ha]
  cases rxStep s <;> rfl

/-- Expiry comes first (R143). -/
theorem blockStep_expired (hst : s.rxst.running) (hd : s.deadline ≤ s.clock) :
    blockStep s = .next (endedWith 2 .timeout { s with rxst := .idle, rxcnt := 0 }) := by
  obtain ⟨k, hstep⟩ := rxStep_running hst
  rw [blockStep_receiving ha, hstep, rxWithByte, if_pos hd]
  rfl

section
variable (hd : s.clock < s.deadline)
include hd

/-- The wait of R144. -/
theorem blockStep_waits (hst : s.rxst.running) (hq : s.rxQueue = []) : blockStep s = .next s := by
  obtain ⟨k, hstep⟩ := rxStep_running hst
  rw [blockStep_receiving ha, hstep, rxWithByte, if_neg (Nat.not_le.mpr hd), hq]
  rfl

variable {b : Byte} {q : List Byte} (hq : s.rxQueue = b :: q)
include hq

/-! ### `SEEK_START` (R145) -/

theorem blockStep_seekStart (hst : s.rxst = .seekStart) :
    blockStep s = (rxSeekStart b { s with rxQueue := q }).outcome r := by
  rw [blockStep_receiving ha, rxStep_seekStart hst, rxWithByte_cons hd hq]

theorem blockStep_markerA (hst : s.rxst = .seekStart) (hb : b = s.params.markerA) :
    blockStep s = .next
      { s with rxQueue := q, rxkind := 0, rxneed := 1, rxlencnt := 0, rxlen := 0, rxst := .readLength } := by
  rw [blockStep_seekStart ha hd hq hst, rxSeekStart, if_pos hb]
  rfl

theorem blockStep_markerB (hst : s.rxst = .seekStart) (hA : b ≠ s.params.markerA) (hB : b = s.params.markerB) :
    blockStep s = .next
      { s with rxQueue := q, rxkind := 1, rxneed := 2, rxlencnt := 0, rxlen := 0, rxst := .readLength } := by
  rw [blockStep_seekStart ha hd hq hst, rxSeekStart, if_neg hA, if_pos hB]
  rfl

theorem blockStep_dropped (hst : s.rxst = .seekStart) (hA : b ≠ s.params.markerA) (hB : b ≠ s.params.markerB) :
    blockStep s = .next { s with rxQueue := q } := by
  rw [blockStep_seekStart ha hd hq hst, rxSeekStart, if_neg hA, if_neg hB]
  rfl

/-! ### `READ_LENGTH` (R146 to R148) -/

theorem blockStep_readLength (hst : s.rxst = .readLength) :
    blockStep s = (rxReadLength b { s with rxQueue := q }).outcome r := by
  rw [blockStep_receiving ha, rxStep_readLength hst, rxWithByte_cons hd hq]

theorem blockStep_lengthByte (hst : s.rxst = .readLength) (hn : s.rxlencnt + 1 ≠ s.rxneed) :
    blockStep s = .next { s with rxQueue := q, rxlen := lengthAfter s.rxlen b, rxlencnt := s.rxlencnt + 1 } := by
  rw [blockStep_readLength ha hd hq hst]
  exact congrArg (RxStep.outcome r) (if_neg hn)

theorem blockStep_lengthDone (hst : s.rxst = .readLength) (hn : s.rxlencnt + 1 = s.rxneed)
    (hl : (lengthAfter s.rxlen b).toNat ≤ s.params.rxMaxPayload) :
    blockStep s = .next { s with
      rxQueue := q, rxlen := lengthAfter s.rxlen b, rxlencnt := s.rxlencnt + 1, rxcnt := 0, rxst := .accumulate } := by
  rw [blockStep_readLength ha hd hq hst]
  exact congrArg (RxStep.outcome r) ((if_pos hn).trans (if_neg (Nat.not_lt.mpr hl)))

theorem blockStep_tooLong (hst : s.rxst = .readLength) (hn : s.rxlencnt + 1 = s.rxneed)
    (hl : s.params.rxMaxPayload < (lengthAfter s.rxlen b).toNat) :
    blockStep s = .next (endedWith 3 (.malformed (lengthAfter s.rxlen b))
      { s with rxQueue := q, rxlen := lengthAfter s.rxlen b, rxlencnt := s.rxlencnt + 1, rxst := .idle }) := by
  rw [blockStep_readLength ha hd hq hst]
  exact congrArg (RxStep.outcome r) ((if_pos hn).trans (if_pos hl))

/-! ### `ACCUMULATE` (R149, R150) -/

section
variable (hst : s.rxst = .accumulate) (hlen : s.rxlen.toNat ≤ s.params.rxMaxPayload)
include hst hlen

/-- The byte due is stored; then its position decides. -/
theorem blockStep_accumulate (hcnt : s.rxcnt.toNat < s.rxlen.toNat + 3) :
    blockStep s = RxStep.outcome r
      (let s1 := { s with rxQueue := q, rxbuf := memWrite s.rxbuf s.rxcnt.toNat b, rxcnt := s.rxcnt + 1 }
      if s.rxcnt.toNat + 1 = s.rxlen.toNat + 3 then
        if memByte s1.rxbuf (s.rxlen.toNat + 2) = s.params.markerStop then rxComplete s1
        else .more { s1 with rxst := .seekStart, rxcnt := 0 }
      else .more s1) := by
  have hfits := s.rxlen.isLt
  have hsucc : (s.rxcnt + 1).toNat = s.rxcnt.toNat + 1 := toNat_add_one (by omega)
  rw [blockStep_receiving ha, rxStep_accumulate hst, rxWithByte_cons hd hq, rxAccumulate, if_neg (by dsimp only; omega)]
  dsimp only
  rw [hsucc]

theorem blockStep_stored (hcnt : s.rxcnt.toNat < s.rxlen.toNat + 2) :
    blockStep s = .next { s with rxQueue := q, rxbuf := memWrite s.rxbuf s.rxcnt.toNat b, rxcnt := s.rxcnt + 1 } := by
  rw [blockStep_accumulate ha hd hq hst hlen (by omega)]
  exact congrArg (RxStep.outcome r) (if_neg (by omega))

variable (hlast : s.rxcnt.toNat = s.rxlen.toNat + 2)
include hlast

/-- The byte compared with `MARKER_STOP` is the one just stored. -/
theorem blockStep_stopPosition :
    blockStep s = RxStep.outcome r
      (let s1 := { s with rxQueue := q, rxbuf := memWrite s.rxbuf s.rxcnt.toNat b, rxcnt := s.rxcnt + 1 }
      if b = s.params.markerStop then rxComplete s1 else .more { s1 with rxst := .seekStart, rxcnt := 0 }) := by
  rw [blockStep_accumulate ha hd hq hst hlen (by omega)]
  dsimp only
  rw [if_pos (by omega), ← hlast, memByte_of_memRead (memRead_memWrite_same _ _ _)]

theorem blockStep_discarded (hb : b ≠ s.params.markerStop) :
    blockStep s = .next
      { s with rxQueue := q, rxbuf := memWrite s.rxbuf s.rxcnt.toNat b, rxcnt := 0, rxst := .seekStart } := by
  rw [blockStep_stopPosition ha hd hq hst hlen hlast]
  exact congrArg (RxStep.outcome r) (if_neg hb)

/-- The stop byte hands over what the buffer holds. -/
theorem blockStep_assembled (hb : b = s.params.markerStop) {p : List Byte} {hi lo : Byte} (hp : p.length = s.rxlen.toNat)
    (hbytes : ∀ i, i < p.length → memRead (memWrite s.rxbuf s.rxcnt.toNat b) i = p[i]?)
    (hhi : memRead (memWrite s.rxbuf s.rxcnt.toNat b) p.length = some hi)
    (hlo : memRead (memWrite s.rxbuf s.rxcnt.toNat b) (p.length + 1) = some lo) :
    blockStep s = endReceive r p (ofBe16 hi lo)
      { s with rxQueue := q, rxbuf := memWrite s.rxbuf s.rxcnt.toNat b, rxcnt := s.rxcnt + 1, rxst := .idle } := by
  have hpayload : memReadAll (memWrite s.rxbuf s.rxcnt.toNat b) 0 p.length = p :=
    memReadAll_eq fun i hi => by rw [Nat.zero_add, hbytes i hi]
  rw [blockStep_stopPosition ha hd hq hst hlen hlast]
  dsimp only
  rw [if_pos hb, rxComplete]
  dsimp only
  rw [← hp, hpayload, memByte_of_memRead hhi, memByte_of_memRead hlo]
  rfl

end

end

end

/-- Settles O30: each of the three states reads its byte through `rxWithByte`. -/
theorem expiryComesFirst : Obligations.ExpiryComesFirst := by
  unfold Obligations.ExpiryComesFirst
  exact fun s r ha hst => ⟨blockStep_expired ha hst, fun hd => blockStep_waits ha hd hst⟩

/-- Settles O31, a transition per marker. -/
theorem seekStartConsumes : Obligations.SeekStartConsumes := by
  unfold Obligations.SeekStartConsumes
  intro s r b q ha hst hd hq
  split_ifs with hA hB
  · exact blockStep_markerA ha hd hq hst hA
  · exact blockStep_markerB ha hd hq hst hA hB
  · exact blockStep_dropped ha hd hq hst hA hB

/-- Settles O32: the length is `lengthAfter`, whose value the count and the limit are compared with. -/
theorem readLengthConsumes : Obligations.ReadLengthConsumes := by
  unfold Obligations.ReadLengthConsumes
  exact fun s r b q ha hst hd hq => ⟨lengthAfter s.rxlen b, toNat_lengthAfter s.rxlen b,
    blockStep_lengthByte ha hd hq hst, blockStep_lengthDone ha hd hq hst, blockStep_tooLong ha hd hq hst⟩

theorem memRead_eq_memByte {m : Memory} {i : Nat} (h : (memRead m i).isSome = true) : memRead m i = some (memByte m i) := by
  obtain ⟨v, hv⟩ := Option.isSome_iff_exists.1 h
  rw [memByte_of_memRead hv, hv]

/-- A range read of written bytes gives what each index reads. -/
theorem getElem?_memReadAll {m : Memory} {i n : Nat} (hi : i < n) (h : (memRead m i).isSome = true) :
    (memReadAll m 0 n)[i]? = memRead m i := by
  rw [memRead_eq_memByte h]
  simp [memReadAll, hi]

/-- Where a payload of `n` bytes and its CRC have been written, they are there to be read. -/
theorem exists_candidate_of_writtenBelow {m : Memory} {n : Nat} (h : writtenBelow m (n + 2)) :
    ∃ (p : List Byte) (hi lo : Byte), p.length = n ∧ (∀ i, i < p.length → memRead m i = p[i]?) ∧
      memRead m p.length = some hi ∧ memRead m (p.length + 1) = some lo := by
  have hp := memReadAll_length m 0 n
  refine ⟨memReadAll m 0 n, memByte m n, memByte m (n + 1), hp, fun i hi => ?_, ?_, ?_⟩
  · rw [hp] at hi
    exact (getElem?_memReadAll hi (h i (by omega))).symm
  · rw [hp]
    exact memRead_eq_memByte (h n (by omega))
  · rw [hp]
    exact memRead_eq_memByte (h (n + 1) (by omega))

/-- Settles O33: under the invariant the byte due has a place in `RXBUF`, and those before it have been written. -/
theorem accumulateConsumes : Obligations.AccumulateConsumes := by
  unfold Obligations.AccumulateConsumes
  intro s r b q hs ha hst hd hq
  obtain ⟨hlen, hcnt, hwritten⟩ := hs.bytes_due hst
  refine ⟨memWrite s.rxbuf s.rxcnt.toNat b, fun i => memRead_memWrite _ _ i _,
    fun hn => blockStep_stored ha hd hq hst hlen (by omega),
    fun hn hb => blockStep_discarded ha hd hq hst hlen (by omega) hb, fun hn hb => ?_⟩
  have hlast : s.rxcnt.toNat = s.rxlen.toNat + 2 := by omega
  rw [hlast] at hwritten
  obtain ⟨p, hi, lo, hp, hbytes, hhi, hlo⟩ :=
    exists_candidate_of_writtenBelow (writtenBelow_memWrite s.rxcnt.toNat b hwritten)
  have hstep := blockStep_assembled ha hd hq hst hlen hlast hb hp hbytes hhi hlo
  refine ⟨p, hi, lo, hp, hbytes, hhi, hlo, hstep, fun hr => ?_⟩
  rw [hstep, hr]
  rfl

/-! ## Termination (R157) -/

/-- While a receive is in progress a block step is a receiver step. -/
theorem BlockEffect.rxEffect {r : Receiver} {s t : State} (h : BlockEffect s t) (ha : s.activity = .receiving r) :
    RxEffect r s t := by
  cases h with
  | receiving k t hk hrx =>
    cases ha.symm.trans hk
    exact hrx
  | idle hk | armed k hk | noTransport k hk => cases ha.symm.trans hk

/-- A receiver step ends the operation, waits, or takes a byte and goes on. -/
theorem RxEffect.ends_waits_or_consumes {r : Receiver} {s t : State} (h : RxEffect r s t)
    (ha : s.activity = .receiving r) :
    t.activity = .idle ∨ (s.rxQueue = [] ∧ t = s) ∨
      (t.activity = .receiving r ∧ ∃ b, s.rxQueue = b :: t.rxQueue) := by
  cases h with
  | expired | tooLong | assembled => exact .inl rfl
  | waited hd hq => exact .inr (.inl ⟨hq, rfl⟩)
  | dropped b q hst hq | opened b q kind hst hq | lengthByte b q hst hq | lengthDone b q hst hq | stored b q hst hq
  | discarded b q hst hq => exact .inr (.inr ⟨ha, b, hq⟩)

/-- Settles O34: under the invariant the step has a next state, and the inversion lemma says which. -/
theorem receiverStepEndsWaitsOrConsumes : Obligations.ReceiverStepEndsWaitsOrConsumes := by
  unfold Obligations.ReceiverStepEndsWaitsOrConsumes
  intro s r hs ha
  obtain ⟨t, ht⟩ := hs.blockStep_isNext
  exact ⟨t, ht, ((blockStep_effect ht).rxEffect ha).ends_waits_or_consumes ha⟩

/-- A step of the machine ends a receive in progress or leaves its deadline. -/
theorem StepEffect.receive_ends_or_goes_on {r : Receiver} {s t : State} (h : StepEffect s t)
    (ha : s.activity = .receiving r) :
    t.activity = .idle ∨ (t.activity = .receiving r ∧ t.deadline = s.deadline) := by
  cases h with
  | block rest t hs hb =>
    rcases (hb.rxEffect ha).ends_waits_or_consumes ha with hidle | ⟨-, rfl⟩ | ⟨hgoes, -⟩
    · exact .inl hidle
    · exact .inr ⟨ha, rfl⟩
    · exact .inr ⟨hgoes, hb.deadline_eq ha⟩
  | ran c bytes more rest i t hs hf hd he =>
    rcases presented_cases (s := { s with schedule := rest }) hf hd he with ⟨bs, rfl⟩ | ⟨hidle, -⟩
    · exact .inr ⟨ha, rfl⟩
    · cases ha.symm.trans hidle
  | arrived | advanced => exact .inr ⟨ha, rfl⟩
  | wasReset => exact .inl rfl

/-- A turn of the block is a block step. -/
theorem blockStep_of_blockTurn {e : Event} {s t : State} (h : step { s with schedule := [e] } = .next t)
    (hturn : blockTurn e s) : ∃ l, blockStep { s with schedule := l } = .next t := by
  rw [step_eq_nextAct (step_effect h).1] at h
  rcases hturn with rfl | ⟨bs, rfl, hbusy⟩
  · rw [nextAct_blockStep rfl] at h
    exact ⟨[], h⟩
  · rw [nextAct_present_busy (s := { s with schedule := [.present .host bs] }) rfl hbusy] at h
    exact ⟨_, h⟩

/-- A sent request starts to receive or ends. -/
theorem BlockEffect.sent_is_over {r : Receiver} {s t : State} (h : BlockEffect s t) (ha : s.activity = .sent r) :
    t.activity = .receiving r ∨ t.activity = .idle := by
  cases h with
  | armed k hk => cases ha.symm.trans hk; exact .inl rfl
  | noTransport => exact .inr rfl
  | idle hk | receiving k t hk => cases ha.symm.trans hk

/-- At or past its deadline a receive ends (R143). -/
theorem RxEffect.expired_is_over {r : Receiver} {s t : State} (h : RxEffect r s t) (hd : s.deadline ≤ s.clock) :
    t.activity = .idle := by
  cases h with
  | expired => rfl
  | _ => omega

section
variable {env : Nat → Event} {σ : Nat → State} (hrun : OpenRun env σ) (hsteps : BlockStepsForever env σ) {n : Nat}
  (hbusy : ∀ m, n ≤ m → (σ m).activity ≠ .idle)
include hrun hsteps hbusy

/-- An operation that does not end comes to receive. -/
theorem receives_of_never_idle : ∃ m r, n ≤ m ∧ (σ m).activity = .receiving r := by
  obtain ⟨m, hm, hturn⟩ := hsteps n
  obtain ⟨l, hblock⟩ := blockStep_of_blockTurn (hrun m) hturn
  cases ha : (σ m).activity with
  | idle => exact absurd ha (hbusy m hm)
  | receiving r => exact ⟨m, r, hm, ha⟩
  | sent r =>
    have hn : n ≤ m + 1 := by omega
    rcases (blockStep_effect hblock).sent_is_over ha with hreceives | hidle
    · exact ⟨m + 1, r, hn, hreceives⟩
    · exact absurd hidle (hbusy (m + 1) hn)

omit hsteps in
/-- A receive that does not end keeps its deadline (10_state.md R28). -/
theorem deadline_of_never_idle {r : Receiver} (ha : (σ n).activity = .receiving r) {m : Nat} (hm : n ≤ m) :
    (σ m).activity = .receiving r ∧ (σ m).deadline = (σ n).deadline := by
  induction m, hm using Nat.le_induction with
  | base => exact ⟨ha, rfl⟩
  | succ m hm ih =>
    obtain ⟨hreceives, hdeadline⟩ := ih
    rcases (step_effect (hrun m)).2.receive_ends_or_goes_on hreceives with hidle | ⟨hgoes, hkept⟩
    · exact absurd hidle (hbusy (m + 1) (by omega))
    · exact ⟨hgoes, hkept.trans hdeadline⟩

end

/-- Settles O60: an operation that never ended would receive for ever with one deadline, which the clock passes before
some turn of the block; but that turn ends it. -/
theorem receiveEndsUnderFairClock : Obligations.ReceiveEndsUnderFairClock := by
  unfold Obligations.ReceiveEndsUnderFairClock
  intro env σ hrun hfair hsteps n hn
  by_contra! hnever
  have hbusy (m : Nat) (hm : n ≤ m) : (σ m).activity ≠ .idle := by
    rcases hm.eq_or_lt with rfl | hlt
    · exact hn
    · exact hnever m hlt
  obtain ⟨m, r, hm, ha⟩ := receives_of_never_idle hrun hsteps hbusy
  have hbusy' (k : Nat) (hk : m ≤ k) := hbusy k (hm.trans hk)
  obtain ⟨c, hc⟩ := hfair.unbounded hsteps (σ m).deadline
  obtain ⟨k, hk, hturn⟩ := hsteps (max m c)
  obtain ⟨hmk, hck⟩ := max_le_iff.1 hk
  obtain ⟨hreceives, hdeadline⟩ := deadline_of_never_idle hrun hbusy' ha hmk
  have hexpired : (σ k).deadline ≤ (σ k).clock := hdeadline.trans_le (hc.trans (hfair.monotonic c k hck))
  obtain ⟨l, hblock⟩ := blockStep_of_blockTurn (hrun k) hturn
  exact hbusy' (k + 1) (by omega) (((blockStep_effect hblock).rxEffect hreceives).expired_is_over hexpired)

end Sys2Proof.Machine
end

section
/-! PROOFS. The receiver among the acts of its environment (42_frame_receiver.md R142). A block step depends on the queue
and the clock by the oldest byte and the deadline only, and the environment moves nothing else; so a receive is a chain of
bytes taken, whatever arrives and however the clock advances in between. -/
namespace Sys2Proof.Machine

/-! ## A state within its environment -/

/-- The state `s` with this receive queue, this clock and these acts to come around it. -/
def State.within (s : State) (q : List Byte) (c : Nat) (l : List Event) : State :=
  { s with rxQueue := q, clock := c, schedule := l }

/-- The machine goes from `s` to `t` in `k` steps. -/
def Runs (k : Nat) (s t : State) : Prop := core.run k s = .next t

theorem Runs.zero (s : State) : Runs 0 s s := rfl

theorem Runs.succ {s t u : State} {k : Nat} (h : step s = .next t) (ht : Runs k t u) : Runs (k + 1) s u := by
  simpa only [Runs, Host.Core.run, show core.step s = .next t from h] using ht

section
variable {s t : State} (hv : s.params.valid = true) {q : List Byte} {c k : Nat} {l : List Event}
include hv

theorem Runs.arrival {bs : List Byte} (h : Runs k (s.within (q ++ bs) c l) t) :
    Runs (k + 1) (s.within q c (.arrive bs :: l)) t :=
  h.succ ((step_eq_nextAct (s := s.within q c (.arrive bs :: l)) hv).trans (nextAct_arrive rfl))

theorem Runs.advance {n : Nat} (h : Runs k (s.within q (c + n) l) t) :
    Runs (k + 1) (s.within q c (.advance n :: l)) t :=
  h.succ ((step_eq_nextAct (s := s.within q c (.advance n :: l)) hv).trans (nextAct_advance rfl))

theorem Runs.blockAct {u : State} (hstep : blockStep (s.within q c l) = .next u) (h : Runs k u t) :
    Runs (k + 1) (s.within q c (.blockStep :: l)) t := by
  refine h.succ ((step_eq_nextAct (s := s.within q c (.blockStep :: l)) hv).trans ?_)
  exact (nextAct_blockStep rfl).trans hstep

/-- With no act left, or an operation waiting at the busy port, the block steps by itself. -/
theorem Runs.blockAlone {u : State} (hl : blockGoesOn l) (hbusy : s.activity ≠ .idle)
    (hstep : blockStep (s.within q c l) = .next u) (h : Runs k u t) : Runs (k + 1) (s.within q c l) t := by
  refine h.succ (((step_eq_nextAct (s := s.within q c l) hv).trans ?_).trans hstep)
  rcases hl with rfl | ⟨bs, rest, rfl⟩
  · exact nextAct_nil rfl
  · exact nextAct_present_busy rfl hbusy

/-- The block's turn, as an act or with none left. -/
theorem Runs.turn {rest more : List Event} (hrest : rest = .blockStep :: more ∨ (rest = [] ∧ more = []))
    (hstep : blockStep (s.within q c more) = .next t) : Runs 1 (s.within q c rest) t := by
  rcases hrest with rfl | ⟨rfl, rfl⟩
  · exact .blockAct hv hstep (.zero t)
  · exact (Runs.zero t).succ (((step_eq_nextAct (s := s.within q c []) hv).trans (nextAct_nil rfl)).trans hstep)

/-- An idle block lets its environment act. -/
theorem Runs.idle (hidle : s.activity = .idle) {acts rest : List Event} (hacts : receiverActs acts)
    (h : Runs k (s.within (q ++ arrivedIn acts) (c + advancedIn acts) rest) t) :
    Runs (acts.length + k) (s.within q c (acts ++ rest)) t := by
  induction acts generalizing q c with
  | nil =>
    rw [arrivedIn, List.append_nil] at h
    rw [List.length_nil, Nat.zero_add]
    exact h
  | cons e acts ih =>
    obtain ⟨he, htail⟩ := receiverActs_cons hacts
    rw [List.length_cons, Nat.add_right_comm]
    rcases he with rfl | ⟨bs, rfl⟩ | ⟨n, rfl⟩
    · exact .blockAct hv (blockStep_idle hidle) (ih htail h)
    · rw [arrivedIn, ← List.append_assoc] at h
      exact .arrival hv (ih htail h)
    · rw [advancedIn, ← Nat.add_assoc] at h
      exact .advance hv (ih htail h)

end

/-! ## Bytes taken -/

/-- The receiver's own registers apart, `t` is `s`. -/
def OnlyReceiverMoved (s t : State) : Prop :=
  t = { s with
    rxst := t.rxst, rxkind := t.rxkind, rxneed := t.rxneed, rxlencnt := t.rxlencnt, rxlen := t.rxlen, rxcnt := t.rxcnt
    rxbuf := t.rxbuf }

theorem OnlyReceiverMoved.trans {s t u : State} (hst : OnlyReceiverMoved s t) (htu : OnlyReceiverMoved t u) :
    OnlyReceiverMoved s u := by
  unfold OnlyReceiverMoved at hst htu ⊢
  rw [htu, hst]

theorem OnlyReceiverMoved.params_eq {s t : State} (h : OnlyReceiverMoved s t) : t.params = s.params := by
  rw [h]

theorem OnlyReceiverMoved.record {s t : State} (h : OnlyReceiverMoved s t) : RecordKept s t := by
  rw [h]
  exact ⟨rfl, rfl⟩

theorem OnlyReceiverMoved.crc_eq {s t : State} (h : OnlyReceiverMoved s t) : t.crc = s.crc := by
  rw [h]

theorem OnlyReceiverMoved.txStream_eq {s t : State} (h : OnlyReceiverMoved s t) : t.txStream = s.txStream := by
  rw [h]

/-- With time left before `d`, the busy block takes the byte `b` in state `s` and is in state `t` after it, whatever
stands around. -/
structure Takes (d : Nat) (s : State) (b : Byte) (t : State) : Prop where
  busy : s.activity ≠ .idle
  blockStep_eq : ∀ q c l, c < d → blockStep (s.within (b :: q) c l) = .next (t.within q c l)

/-- The block takes the bytes of a list one by one. -/
inductive TakesAll (d : Nat) : State → List Byte → State → Prop where
  | nil (s : State) : TakesAll d s [] s
  | cons {s t u : State} {b : Byte} {bs : List Byte} (h : Takes d s b t) (hs : TakesAll d t bs u) :
      TakesAll d s (b :: bs) u

theorem TakesAll.append {d : Nat} {s t u : State} {x y : List Byte} (hx : TakesAll d s x t) (hy : TakesAll d t y u) :
    TakesAll d s (x ++ y) u := by
  induction hx with
  | nil => exact hy
  | cons h _ ih => exact .cons h (ih hy)

theorem Takes.params_eq {d : Nat} {s t : State} {b : Byte} (h : Takes d s b t) (hd : 0 < d) : t.params = s.params :=
  (blockStep_effect (h.blockStep_eq [] 0 [] hd)).staticKept.1

/-- The block's own steps take the bytes that stand in the queue. -/
theorem TakesAll.runs_alone {d : Nat} {s u : State} {bs : List Byte} (h : TakesAll d s bs u) (hv : s.params.valid = true)
    {more : List Event} (hmore : bs.length = 0 ∨ blockGoesOn more) {c : Nat} (hc : c < d) (q : List Byte) :
    Runs bs.length (s.within (bs ++ q) c more) (u.within q c more) := by
  induction h with
  | nil s => exact .zero _
  | cons h _ ih =>
    have hgoes : blockGoesOn more := hmore.resolve_left nofun
    have hv' := h.params_eq (Nat.zero_lt_of_lt hc) ▸ hv
    exact .blockAlone hv hgoes h.busy (h.blockStep_eq _ c more hc) (ih hv' (.inr hgoes))

/-- Bytes that stand in the queue are taken, one per block step, and what stands behind them stays with all that arrives;
the last `k` block steps are the block's own. -/
theorem TakesAll.runs {d : Nat} {s u : State} {bs : List Byte} (h : TakesAll d s bs u) (hv : s.params.valid = true)
    {acts more : List Event} {k : Nat} (hacts : receiverActs acts) (hmore : k = 0 ∨ blockGoesOn more)
    (hcount : blockStepsIn acts + k = bs.length) {c : Nat} (hc : c + advancedIn acts < d) (q : List Byte) :
    Runs (acts.length + k) (s.within (bs ++ q) c (acts ++ more))
      (u.within (q ++ arrivedIn acts) (c + advancedIn acts) more) := by
  induction acts generalizing s bs c q with
  | nil =>
    rw [blockStepsIn, Nat.zero_add] at hcount
    subst hcount
    rw [List.length_nil, Nat.zero_add, arrivedIn, List.append_nil]
    exact h.runs_alone hv hmore hc q
  | cons e acts ih =>
    obtain ⟨he, htail⟩ := receiverActs_cons hacts
    rw [List.length_cons, Nat.add_right_comm]
    rcases he with rfl | ⟨x, rfl⟩ | ⟨n, rfl⟩
    · cases h with
      | nil =>
        rw [blockStepsIn, List.length_nil] at hcount
        omega
      | cons h hs =>
        have htime : c < d := (Nat.le_add_right c _).trans_lt hc
        have hv' := h.params_eq (Nat.zero_lt_of_lt htime) ▸ hv
        rw [blockStepsIn, List.length_cons] at hcount
        exact .blockAct hv (h.blockStep_eq _ c _ htime) (ih hs hv' htail (by omega) hc q)
    · refine .arrival hv ?_
      rw [List.append_assoc, arrivedIn, ← List.append_assoc q]
      exact ih h hv htail hcount hc (q ++ x)
    · refine .advance hv ?_
      rw [advancedIn, ← Nat.add_assoc] at hc ⊢
      exact ih h hv htail hcount hc q

/-- Over the bytes of a list the block comes to a state of `Q`, and moves the receiver's registers only. -/
def Reaches (d : Nat) (s : State) (bs : List Byte) (Q : State → Prop) : Prop :=
  ∃ t, TakesAll d s bs t ∧ OnlyReceiverMoved s t ∧ Q t

theorem Reaches.nil {d : Nat} {s : State} {Q : State → Prop} (h : Q s) : Reaches d s [] Q := ⟨s, .nil s, rfl, h⟩

theorem Reaches.byte {d : Nat} {s t : State} {b : Byte} {Q : State → Prop} (h : Takes d s b t)
    (hmoved : OnlyReceiverMoved s t) (hQ : Q t) : Reaches d s [b] Q := ⟨t, .cons h (.nil t), hmoved, hQ⟩

theorem Reaches.append {d : Nat} {s : State} {x y : List Byte} {Q R : State → Prop} (hx : Reaches d s x Q)
    (hy : ∀ t, t.params = s.params → Q t → Reaches d t y R) : Reaches d s (x ++ y) R := by
  obtain ⟨t, htakes, hmoved, hQ⟩ := hx
  obtain ⟨u, htakes', hmoved', hR⟩ := hy t hmoved.params_eq hQ
  exact ⟨u, htakes.append htakes', hmoved.trans hmoved', hR⟩

/-! ## The search -/

/-- The receive of `r` is in the state `st`, its deadline `d`. -/
structure Receives (d : Nat) (r : Receiver) (st : RxState) (s : State) : Prop where
  activity : s.activity = .receiving r
  deadline : s.deadline = d
  rxst : s.rxst = st

/-- A candidate of `n` declared bytes has accumulated the bytes `got`. -/
structure Accumulates (d : Nat) (r : Receiver) (n : Nat) (got : List Byte) (s : State) : Prop
    extends Receives d r .accumulate s where
  length : s.rxlen.toNat = n
  fits : n ≤ s.params.rxMaxPayload
  count : s.rxcnt.toNat = got.length
  stored : ∀ i, i < got.length → memRead s.rxbuf i = got[i]?

section
variable {d : Nat} {r : Receiver} {st : RxState} {s : State}

theorem Receives.busy (h : Receives d r st s) : s.activity ≠ .idle := by
  rw [h.activity]
  exact nofun

/-- One block step of a receive, from its equation. -/
theorem Receives.takes {b : Byte} {t : State} (h : Receives d r st s)
    (hstep : ∀ q c l, c < s.deadline → blockStep (s.within (b :: q) c l) = .next (t.within q c l)) : Takes d s b t :=
  ⟨h.busy, fun q c l hc => hstep q c l (hc.trans_eq h.deadline.symm)⟩

theorem reaches_dropped (h : Receives d r .seekStart s) {b : Byte} (hA : b ≠ s.params.markerA)
    (hB : b ≠ s.params.markerB) : Reaches d s [b] (Receives d r .seekStart) :=
  .byte (h.takes fun q c l hd => blockStep_dropped (s := s.within (b :: q) c l) h.activity hd rfl h.rxst hA hB) rfl h

/-! ### The header of a candidate -/

/-- `RXNEED` length bytes are due, `RXLENCNT` of them have been read, of the value `len`. -/
structure ReadsLength (d : Nat) (r : Receiver) (due read : BitVec 2) (len : Nat) (s : State) : Prop
    extends Receives d r .readLength s where
  due_eq : s.rxneed = due
  read_eq : s.rxlencnt = read
  value : s.rxlen.toNat = len

theorem reaches_opened_markerA (h : Receives d r .seekStart s) :
    Reaches d s [s.params.markerA] (ReadsLength d r 1 0 0) :=
  .byte (t := { s with rxkind := 0, rxneed := 1, rxlencnt := 0, rxlen := 0, rxst := .readLength })
    (h.takes fun q c l hd => blockStep_markerA (s := s.within (_ :: q) c l) h.activity hd rfl h.rxst rfl) rfl
    ⟨⟨h.activity, h.deadline, rfl⟩, rfl, rfl, rfl⟩

theorem reaches_opened_markerB (h : Receives d r .seekStart s) (hmarkers : s.params.markerA ≠ s.params.markerB) :
    Reaches d s [s.params.markerB] (ReadsLength d r 2 0 0) :=
  .byte (t := { s with rxkind := 1, rxneed := 2, rxlencnt := 0, rxlen := 0, rxst := .readLength })
    (h.takes fun q c l hd =>
      blockStep_markerB (s := s.within (_ :: q) c l) h.activity hd rfl h.rxst hmarkers.symm rfl) rfl
    ⟨⟨h.activity, h.deadline, rfl⟩, rfl, rfl, rfl⟩

theorem reaches_lengthByte {due read : BitVec 2} {len : Nat} (h : ReadsLength d r due read len s) (hn : read + 1 ≠ due)
    (hlen : len < 256) (b : Byte) : Reaches d s [b] (ReadsLength d r due (read + 1) (len * 256 + b.toNat)) := by
  obtain ⟨hrx, rfl, rfl, rfl⟩ := h
  have hb := b.isLt
  have hvalue := toNat_lengthAfter s.rxlen b
  rw [Nat.mod_eq_of_lt (by omega)] at hvalue
  exact .byte (t := { s with rxlen := lengthAfter s.rxlen b, rxlencnt := s.rxlencnt + 1 })
    (hrx.takes fun q c l hd =>
      blockStep_lengthByte (s := s.within (b :: q) c l) hrx.activity hd rfl hrx.rxst hn) rfl
    ⟨⟨hrx.activity, hrx.deadline, hrx.rxst⟩, rfl, rfl, hvalue⟩

theorem reaches_lengthDone {due read : BitVec 2} {len : Nat} (h : ReadsLength d r due read len s) (hn : read + 1 = due)
    (hlen : len < 256) {b : Byte} (hmax : len * 256 + b.toNat ≤ s.params.rxMaxPayload) :
    Reaches d s [b] (Accumulates d r (len * 256 + b.toNat) []) := by
  obtain ⟨hrx, rfl, rfl, rfl⟩ := h
  have hb := b.isLt
  have hvalue := toNat_lengthAfter s.rxlen b
  rw [Nat.mod_eq_of_lt (by omega)] at hvalue
  exact .byte
    (t := { s with rxlen := lengthAfter s.rxlen b, rxlencnt := s.rxlencnt + 1, rxcnt := 0, rxst := .accumulate })
    (hrx.takes fun q c l hd =>
      blockStep_lengthDone (s := s.within (b :: q) c l) hrx.activity hd rfl hrx.rxst hn (hvalue.trans_le hmax)) rfl
    ⟨⟨hrx.activity, hrx.deadline, rfl⟩, hvalue, hmax, rfl, fun i hi => absurd hi (Nat.not_lt_zero i)⟩

theorem reaches_shortHeader (h : Receives d r .seekStart s) {n : Byte} (hn : n.toNat ≤ s.params.rxMaxPayload) :
    Reaches d s [s.params.markerA, n] (Accumulates d r n.toNat []) := by
  refine (reaches_opened_markerA h).append (y := [n]) fun t hparams ht => ?_
  have hdone := reaches_lengthDone ht rfl (by decide) (b := n) (by rw [hparams]; omega)
  rwa [Nat.zero_mul, Nat.zero_add] at hdone

theorem reaches_longHeader (h : Receives d r .seekStart s) (hmarkers : s.params.markerA ≠ s.params.markerB) {hi lo : Byte}
    (hn : hi.toNat * 256 + lo.toNat ≤ s.params.rxMaxPayload) :
    Reaches d s [s.params.markerB, hi, lo] (Accumulates d r (hi.toNat * 256 + lo.toNat) []) := by
  refine (reaches_opened_markerB h hmarkers).append (y := [hi, lo]) fun t hparams ht => ?_
  refine (reaches_lengthByte ht (by decide) (by decide) hi).append (y := [lo]) fun u hparams' hu => ?_
  rw [Nat.zero_mul, Nat.zero_add] at hu
  exact reaches_lengthDone hu rfl hi.isLt (by rw [hparams', hparams]; exact hn)

/-! ### The bytes of a candidate -/

section
variable {n : Nat} {got : List Byte} (h : Accumulates d r n got s)
include h

/-- The byte due is stored behind those before it. -/
theorem Accumulates.stored_snoc (b : Byte) : ∀ i, i < (got ++ [b]).length →
    memRead (memWrite s.rxbuf s.rxcnt.toNat b) i = (got ++ [b])[i]? := by
  intro i hi
  rw [memRead_memWrite, h.count]
  split_ifs with hlast
  · rw [hlast, List.getElem?_concat_length]
  · rw [List.length_append, List.length_singleton] at hi
    have hbefore : i < got.length := by omega
    rw [h.stored i hbefore, List.getElem?_append_left hbefore]

theorem reaches_stored (hn : got.length < n + 2) (b : Byte) : Reaches d s [b] (Accumulates d r n (got ++ [b])) := by
  have hfits := h.fits
  have hlength := h.length
  have hcount := h.count
  have hlt := s.rxlen.isLt
  have hsucc : (s.rxcnt + 1).toNat = (got ++ [b]).length := by
    rw [toNat_add_one (by omega), hcount, List.length_append, List.length_singleton]
  exact .byte (t := { s with rxbuf := memWrite s.rxbuf s.rxcnt.toNat b, rxcnt := s.rxcnt + 1 })
    (h.takes fun q c l hd => blockStep_stored (s := s.within (b :: q) c l) h.activity hd rfl h.rxst
      (hlength.trans_le hfits) (by change s.rxcnt.toNat < s.rxlen.toNat + 2; omega)) rfl
    ⟨⟨h.activity, h.deadline, h.rxst⟩, hlength, hfits, hsucc, h.stored_snoc b⟩

theorem reaches_storedAll {body : List Byte} (hn : got.length + body.length ≤ n + 2) :
    Reaches d s body (Accumulates d r n (got ++ body)) := by
  induction body generalizing got s with
  | nil => exact .nil ((List.append_nil got).symm ▸ h)
  | cons b body ih =>
    rw [List.length_cons] at hn
    refine (reaches_stored h (by omega) b).append (y := body) fun t _ ht => ?_
    have hrest := ih ht (by rw [List.length_append, List.length_singleton]; omega)
    rwa [List.append_assoc] at hrest

theorem reaches_discarded (hn : got.length = n + 2) {b : Byte} (hb : b ≠ s.params.markerStop) :
    Reaches d s [b] (Receives d r .seekStart) :=
  .byte (t := { s with rxbuf := memWrite s.rxbuf s.rxcnt.toNat b, rxcnt := 0, rxst := .seekStart })
    (h.takes fun q c l hd => blockStep_discarded (s := s.within (b :: q) c l) h.activity hd rfl h.rxst
      (h.length.trans_le h.fits) (h.count.trans (hn.trans (congrArg (· + 2) h.length.symm))) hb) rfl
    ⟨h.activity, h.deadline, rfl⟩

end

/-- A false candidate leads back to the search (R149). -/
theorem reaches_falseCandidate {n : Nat} {header body : List Byte} {stop : Byte}
    (h : Reaches d s header (Accumulates d r n [])) (hbody : body.length = n + 2) (hstop : stop ≠ s.params.markerStop) :
    Reaches d s (header ++ (body ++ [stop])) (Receives d r .seekStart) := by
  refine h.append fun t hparams ht => ?_
  refine (reaches_storedAll ht (by rw [hbody, List.length_nil]; omega)).append fun u hparams' hu => ?_
  exact reaches_discarded hu hbody (by rwa [hparams', hparams])

/-- The search consumes such bytes exactly (R155). -/
theorem SeeksThrough.reaches {P : Params} {g : List Byte} (hg : SeeksThrough P g) (hmarkers : P.markerA ≠ P.markerB)
    (h : Receives d r .seekStart s) (hP : s.params = P) : Reaches d s g (Receives d r .seekStart) := by
  induction hg generalizing s with
  | done => exact .nil h
  | dropped b g hA hB _ ih =>
    subst hP
    exact (reaches_dropped h hA hB).append (y := g) fun t hparams ht => ih ht hparams
  | shortCandidate n stop body g hn hb hs _ ih =>
    subst hP
    have hcandidate := reaches_falseCandidate (reaches_shortHeader h hn) hb hs
    simpa using hcandidate.append (y := g) fun t hparams ht => ih ht hparams
  | longCandidate hi lo stop body g hn hb hs _ ih =>
    subst hP
    have hcandidate := reaches_falseCandidate (reaches_longHeader h hmarkers hn) hb hs
    simpa using hcandidate.append (y := g) fun t hparams ht => ih ht hparams

/-! ### A frame -/

/-- The header of a frame declares its payload's length (41_frame_encoder.md R120). -/
theorem reaches_frameHeader (h : Receives d r .seekStart s) (hmarkers : s.params.markerA ≠ s.params.markerB) {n : Nat}
    (hn : n ≤ s.params.rxMaxPayload) (hmax : n ≤ maxPayload) :
    Reaches d s (frameHeader s.params n) (Accumulates d r n []) := by
  by_cases hshort : n < shortLimit
  · have hvalue : (BitVec.ofNat 8 n).toNat = n := toNat_ofNat_of_lt hshort
    have hheader := reaches_shortHeader h (hvalue.trans_le hn)
    rw [frameHeader, if_pos hshort]
    rwa [hvalue] at hheader
  · have hhi : (BitVec.ofNat 8 (n / 256)).toNat = n / 256 := toNat_ofNat_of_lt (by unfold maxPayload at hmax; omega)
    have hlo : (BitVec.ofNat 8 (n % 256)).toNat = n % 256 := toNat_ofNat_of_lt (by omega)
    have hvalue : (BitVec.ofNat 8 (n / 256)).toNat * 256 + (BitVec.ofNat 8 (n % 256)).toNat = n := by
      rw [hhi, hlo]
      omega
    have hheader := reaches_longHeader h hmarkers (hvalue.trans_le hn)
    rw [frameHeader, if_neg hshort, be16_ofNat]
    rwa [hvalue] at hheader

/-- All of a frame but its stop marker has been accumulated. -/
theorem reaches_frame (h : Receives d r .seekStart s) (hmarkers : s.params.markerA ≠ s.params.markerB) {p : List Byte}
    (hn : p.length ≤ s.params.rxMaxPayload) (hmax : p.length ≤ maxPayload) :
    Reaches d s (frameHeader s.params p.length ++ (p ++ be16 (crc16 p)))
      (Accumulates d r p.length (p ++ be16 (crc16 p))) :=
  (reaches_frameHeader h hmarkers hn hmax).append fun _ _ ht =>
    reaches_storedAll ht (by rw [List.length_append, be16_length, List.length_nil]; omega)

/-- The stop marker hands over the payload and the CRC before it (R150). -/
theorem blockStep_stop {p : List Byte} {crc : BitVec 16} (h : Accumulates d r p.length (p ++ be16 crc) s) :
    ∃ t, OnlyReceiverMoved s t ∧ t.rxst = .idle ∧ ∀ q c l, c < d →
      blockStep (s.within (s.params.markerStop :: q) c l) = endReceive r p crc (t.within q c l) := by
  have hread (i : Nat) (hi : i < p.length + 3) := h.stored_snoc s.params.markerStop i (by simpa using hi)
  have hlast : s.rxcnt.toNat = s.rxlen.toNat + 2 := by
    rw [h.count, h.length, List.length_append, be16_length]
  have hbytes (i : Nat) (hi : i < p.length) :
      memRead (memWrite s.rxbuf s.rxcnt.toNat s.params.markerStop) i = p[i]? := by
    rw [hread i (by omega), List.append_assoc, List.getElem?_append_left hi]
  have hhi : memRead (memWrite s.rxbuf s.rxcnt.toNat s.params.markerStop) p.length = some (crc.extractLsb' 8 8) := by
    rw [hread _ (by omega), List.append_assoc, List.getElem?_append_right le_rfl, Nat.sub_self]
    rfl
  have hlo : memRead (memWrite s.rxbuf s.rxcnt.toNat s.params.markerStop) (p.length + 1) =
      some (crc.extractLsb' 0 8) := by
    rw [hread _ (by omega), List.append_assoc, List.getElem?_append_right (Nat.le_add_right _ 1), Nat.add_sub_cancel_left]
    rfl
  refine ⟨{ s with
    rxbuf := memWrite s.rxbuf s.rxcnt.toNat s.params.markerStop, rxcnt := s.rxcnt + 1, rxst := .idle }, rfl, rfl, ?_⟩
  intro q c l hc
  have hstep := blockStep_assembled (s := s.within (s.params.markerStop :: q) c l) h.activity
    (hc.trans_eq h.deadline.symm) rfl h.rxst (h.length.trans_le h.fits) hlast rfl h.length.symm hbytes hhi hlo
  rwa [ofBe16_extract] at hstep

end

/-! ## `RX_RECEIVE` -/

theorem Params.rxMaxPayload_le_of_valid {P : Params} (h : P.valid = true) : P.rxMaxPayload ≤ maxPayload := by
  obtain ⟨-, -, hmax, -⟩ := (illegalInstantiationsAreRefused.1 P).1 h
  exact hmax

/-- Behind bytes that the search consumes exactly, a frame is accumulated up to its stop marker. -/
theorem reaches_firstFrame {d : Nat} {r : Receiver} {s : State} (h : Receives d r .seekStart s)
    (hv : s.params.valid = true) {g p : List Byte} (hg : SeeksThrough s.params g)
    (hp : p.length ≤ s.params.rxMaxPayload) :
    Reaches d s (g ++ (frameHeader s.params p.length ++ (p ++ be16 (crc16 p))))
      (Accumulates d r p.length (p ++ be16 (crc16 p))) := by
  have hmarkers := Params.markers_ne_of_valid hv
  have hmax := hp.trans (Params.rxMaxPayload_le_of_valid hv)
  refine (hg.reaches hmarkers h rfl).append fun t hparams ht => ?_
  rw [← hparams] at hmarkers hp ⊢
  exact reaches_frame ht hmarkers hp hmax

/-- `RX_RECEIVE` takes those bytes and the stop marker, and ends with the frame's payload. -/
theorem takesAll_firstFrame {d : Nat} {s : State} (h : Receives d .rxReceive .seekStart s) (hv : s.params.valid = true)
    {g p : List Byte} (hg : SeeksThrough s.params g) (hp : p.length ≤ s.params.rxMaxPayload) :
    ∃ t, OnlyReceiverMoved s t ∧ t.rxst = .idle ∧
      TakesAll d s (g ++ frame s.params p) (ended 0 (.payloadCrc p (crc16 p)) t) := by
  obtain ⟨a, htakes, hmoved, ha⟩ := reaches_firstFrame h hv hg hp
  obtain ⟨t, hmoved', hidle, hstop⟩ := blockStep_stop ha
  rw [hmoved.params_eq] at hstop
  have hlast : Takes d a s.params.markerStop (ended 0 (.payloadCrc p (crc16 p)) t) :=
    ⟨ha.busy, fun q c l hc => hstop q c l hc⟩
  refine ⟨t, hmoved.trans hmoved', hidle, ?_⟩
  simpa [frame] using htakes.append (.cons hlast (.nil _))

theorem searching_receives (d : Nat) (s : State) : Receives d .rxReceive .seekStart (searching d s) := ⟨rfl, rfl, rfl⟩

theorem searching_within (d : Nat) (s : State) :
    (searching d s).within s.rxQueue s.clock s.schedule = searching d s := rfl

/-- Settles O35: `RX_RECEIVE` starts the search, which takes all bytes up to the end of the frame, one per block step. -/
theorem receiveReturnsTheFirstFrame : Obligations.ReceiveReturnsTheFirstFrame := by
  unfold Obligations.ReceiveReturnsTheFirstFrame
  intro s d k g p h acts more hv ht hsched hacts hmore hcount htime hp hg hq
  obtain ⟨t, hmoved, hidle, htakes⟩ := takesAll_firstFrame (searching_receives d s) hv hg hp
  obtain ⟨htelem, hvalid⟩ := hmoved.record
  have hruns : Runs (acts.length + k) ((searching d s).within (g ++ frame s.params p ++ h) s.clock (acts ++ more)) _ :=
    htakes.runs hv hacts hmore (by rw [List.length_append]; exact hcount) htime h
  rw [← hq, ← hsched, searching_within] at hruns
  exact ⟨_, _, _, exec_rxReceive_of_present ht d, hruns, rfl, rfl, rfl, hidle, rfl, rfl, rfl, htelem, hvalid,
    hmoved.crc_eq, hmoved.txStream_eq, exec_rxValidate_of_eq rfl _, rfl, rfl⟩

/-! ## No start marker -/

/-- The receive of `s` has timed out (R143). -/
def timedOut (s : State) : State := endedWith 2 .timeout { s with rxst := .idle, rxcnt := 0 }

section
variable {d : Nat} {r : Receiver} {s : State} (h : Receives d r .seekStart s) {q : List Byte} {c : Nat}
include h

theorem Receives.times_out (hc : d ≤ c) (l : List Event) :
    blockStep (s.within q c l) = .next ((timedOut s).within q c l) :=
  blockStep_expired (s := s.within q c l) h.activity (.inl h.rxst) (h.deadline.trans_le hc)

/-- Before the deadline the search drops the oldest byte, where there is one. -/
theorem Receives.drops_head (hc : c < d) (hq : noMarker s.params q) (l : List Event) :
    blockStep (s.within q c l) = .next (s.within q.tail c l) := by
  have htime : c < s.deadline := hc.trans_eq h.deadline.symm
  cases q with
  | nil => exact blockStep_waits (s := s.within [] c l) h.activity htime (.inl h.rxst) rfl
  | cons b q =>
    obtain ⟨hA, hB⟩ := hq b List.mem_cons_self
    exact blockStep_dropped (s := s.within (b :: q) c l) h.activity htime rfl h.rxst hA hB

variable (hv : s.params.valid = true) {acts rest more : List Event} (hacts : receiverActs acts)
  (hrest : rest = .blockStep :: more ∨ (rest = [] ∧ more = []))
include hv hacts hrest

/-- At or past the deadline the first turn of the block ends the receive; nothing is taken from the queue. -/
theorem Receives.runs_expired (hc : d ≤ c) :
    Runs (acts.length + 1) (s.within q c (acts ++ rest))
      ((timedOut s).within (q ++ arrivedIn acts) (c + advancedIn acts) more) := by
  induction acts generalizing q c with
  | nil =>
    rw [arrivedIn, List.append_nil]
    exact .turn hv hrest (h.times_out hc more)
  | cons e acts ih =>
    obtain ⟨he, htail⟩ := receiverActs_cons hacts
    rcases he with rfl | ⟨bs, rfl⟩ | ⟨n, rfl⟩
    · have hidle (q : List Byte) (c : Nat) : Runs 1 ((timedOut s).within q c rest) ((timedOut s).within q c more) :=
        .turn (s := timedOut s) hv hrest (blockStep_idle rfl)
      exact .blockAct hv (h.times_out hc _) (.idle (s := timedOut s) hv rfl htail (hidle _ _))
    · rw [arrivedIn, ← List.append_assoc]
      exact .arrival hv (ih htail hc)
    · rw [advancedIn, ← Nat.add_assoc]
      exact .advance hv (ih htail (hc.trans (Nat.le_add_right c n)))

/-- Where no start marker comes before the deadline, the search takes byte by byte until it has passed. -/
theorem Receives.runs_to_timeout (hno : noMarker s.params (q ++ arrivedBefore d c acts)) (hc : d ≤ c + advancedIn acts) :
    Runs (acts.length + 1) (s.within q c (acts ++ rest))
      ((timedOut s).within (searchLeaves d c q acts) (c + advancedIn acts) more) := by
  induction acts generalizing q c with
  | nil =>
    have hruns := h.runs_expired (q := q) (c := c) hv hacts hrest hc
    rwa [arrivedIn, List.append_nil] at hruns
  | cons e acts ih =>
    rcases Nat.lt_or_ge c d with htime | hexpired
    · obtain ⟨he, htail⟩ := receiverActs_cons hacts
      rcases he with rfl | ⟨bs, rfl⟩ | ⟨n, rfl⟩
      · have hq : noMarker s.params q := fun b hb => hno b (List.mem_append_left _ hb)
        have hno' : noMarker s.params (q.tail ++ arrivedBefore d c acts) := fun b hb =>
          hno b (((List.tail_sublist q).append_right _).subset hb)
        rw [searchLeaves, if_pos htime]
        exact .blockAct hv (h.drops_head htime hq _) (ih htail hno' hc)
      · rw [arrivedBefore, if_pos htime, ← List.append_assoc] at hno
        exact .arrival hv (ih htail hno hc)
      · rw [advancedIn, ← Nat.add_assoc] at hc ⊢
        exact .advance hv (ih htail hno hc)
    · rw [searchLeaves_expired _ c q hexpired]
      exact h.runs_expired hv hacts hrest hexpired

end

/-- Settles O36: the search that `RX_RECEIVE` starts writes no register until it times out. -/
theorem noMarkerEndsInTimeout : Obligations.NoMarkerEndsInTimeout := by
  unfold Obligations.NoMarkerEndsInTimeout
  intro s d acts rest more hv ht hsched hacts hrest hno hc
  have hruns := (searching_receives d s).runs_to_timeout hv hacts hrest hno hc
  rw [← hsched, searching_within] at hruns
  exact ⟨_, _, exec_rxReceive_of_present ht d, hruns, rfl, rfl, rfl, rfl, rfl, rfl, rfl, rfl, rfl, rfl, rfl, rfl⟩

end Sys2Proof.Machine
end

section
/-! PROOFS. The command codec of 43_command_codec.md R180 to R193. An operation that takes an address puts a payload of its
own behind the envelope where an address is given; what that does to a payload or to an error is said once
(`Envelopes`), and each operation is shown to do it. -/
namespace Sys2Proof.Machine

variable {P : Params} {s t : State} {a : Byte} {p w : List Byte}

/-! ## The envelope (R181) -/

theorem wrap_of_le (h : p.length ≤ 255) : wrap P (some a) p = .ok (envelope P a p) := if_neg (Nat.not_lt.mpr h)

theorem wrap_of_gt (h : 255 < p.length) : wrap P (some a) p = .error (.encodingTooLarge p.length) := if_pos h

theorem returnPayload_wrap_of_le (h : p.length ≤ 255) :
    returnPayload (wrap s.params (some a) p) s = .next (ended 0 (.payload (envelope s.params a p)) s) := by
  rw [wrap_of_le h]
  rfl

theorem returnPayload_wrap_of_gt (h : 255 < p.length) :
    returnPayload (wrap s.params (some a) p) s = .next (endedWith 1 (.encodingTooLarge p.length) s) := by
  rw [wrap_of_gt h]
  rfl

theorem exec_fwdWrap (a : Byte) (p : List Byte) (s : State) :
    exec (.fwdWrap a p) s = returnPayload (wrap s.params (some a) p) s := rfl

/-- Settles O42: `FWD_WRAP` is `wrap` with its address. -/
theorem fwdWrapCompletes : Obligations.FwdWrapCompletes := by
  unfold Obligations.FwdWrapCompletes
  exact fun s a p => ⟨Laws.FirstByte.fwdWrap a p rfl s.params,
    fun h => (exec_fwdWrap a p s).trans (returnPayload_wrap_of_le h),
    fun h => (exec_fwdWrap a p s).trans (returnPayload_wrap_of_gt h)⟩

/-! ## The operations that take an address -/

/-- In the state `s` the operation `i` computes the payload `c`, or its error, and returns it by `wrap`. -/
def Envelopes (s : State) (i : Option Byte → Instr) (c : Except BlockError (List Byte)) : Prop :=
  ∀ o, exec (i o) s = returnPayload (c.bind (wrap s.params o)) s

section
variable {i : Option Byte → Instr}

theorem Envelopes.exec_local (h : Envelopes s i (.ok p)) : exec (i none) s = .next (ended 0 (.payload p) s) := h none

theorem Envelopes.exec_addressed_of_le (h : Envelopes s i (.ok p)) (hp : p.length ≤ 255) (a : Byte) :
    exec (i (some a)) s = .next (ended 0 (.payload (envelope s.params a p)) s) :=
  (h (some a)).trans (returnPayload_wrap_of_le hp)

theorem Envelopes.exec_addressed_of_gt (h : Envelopes s i (.ok p)) (hp : 255 < p.length) (a : Byte) :
    exec (i (some a)) s = .next (endedWith 1 (.encodingTooLarge p.length) s) :=
  (h (some a)).trans (returnPayload_wrap_of_gt hp)

theorem Envelopes.exec_error {e : BlockError} (h : Envelopes s i (.error e)) (o : Option Byte) :
    exec (i o) s = .next (endedWith (errorCode e) e s) := h o

/-- An addressed operation that returns a payload had one of its own, short enough for the envelope it returned. -/
theorem Envelopes.payload_of_addressed {c : Except BlockError (List Byte)} (h : Envelopes s i c)
    (ht : exec (i (some a)) s = .next t) (hw : t.result = some (.payload w)) :
    ∃ p, c = .ok p ∧ p.length ≤ 255 ∧ w = envelope s.params a p := by
  cases c with
  | error e =>
    cases (h.exec_error (some a)).symm.trans ht
    cases hw
  | ok p =>
    rcases Nat.lt_or_ge 255 p.length with hp | hp
    · cases (h.exec_addressed_of_gt hp a).symm.trans ht
      cases hw
    · cases (h.exec_addressed_of_le hp a).symm.trans ht
      cases hw
      exact ⟨p, rfl, hp, rfl⟩

end

theorem envelopes_encGetValues (s : State) : Envelopes s .encGetValues (.ok (getValuesPayload s.params)) := fun _ => rfl

theorem envelopes_encStop (s : State) : Envelopes s .encStop (.ok (stopPayload s.params)) := fun _ => rfl

theorem envelopes_encSetRpm (rpm : I32) (s : State) :
    Envelopes s (.encSetRpm rpm) (.ok (setRpmPayload s.params rpm)) := fun _ => rfl

theorem envelopes_encJoystick (x y : I32) (buttonA buttonB : Bool) (s : State) :
    Envelopes s (.encJoystick x y buttonA buttonB)
      (.ok (chuckPayload s.params (axisByte x) (axisByte y) buttonA buttonB)) := fun _ => rfl

/-- `ENC_SCAN` takes no address and is never wrapped (R184). -/
theorem exec_encScan (s : State) : exec .encScan s = .next (ended 0 (.payload (scanPayload s.params)) s) := rfl

/-- Settles O39: an `i32` behind its identifier has five bytes, and an identifier alone is one. -/
theorem unscaledCommandsComplete : Obligations.UnscaledCommandsComplete := by
  unfold Obligations.UnscaledCommandsComplete
  intro s a rpm
  have hvalues := envelopes_encGetValues s
  have hstop := envelopes_encStop s
  have hrpm := envelopes_encSetRpm rpm s
  refine ⟨fun o => ⟨?_, ?_, ?_, ?_⟩, hvalues.exec_local, hvalues.exec_addressed_of_le (by decide : 1 ≤ 255) a,
    exec_encScan s, hstop.exec_local, hstop.exec_addressed_of_le (by decide : 1 ≤ 255) a,
    hrpm.exec_local, hrpm.exec_addressed_of_le (by decide : 5 ≤ 255) a⟩
  · exact Laws.FirstByte.encGetValues o rfl s.params
  · exact Laws.FirstByte.encScan rfl s.params
  · exact Laws.FirstByte.encStop o rfl s.params
  · exact Laws.FirstByte.encSetRpm rpm o rfl s.params

theorem chuckPayload_length (P : Params) (x y : Byte) (buttonA buttonB : Bool) :
    (chuckPayload P x y buttonA buttonB).length = 5 + P.joyPadBytes := by
  rw [chuckPayload, List.length_append, List.length_replicate]
  rfl

/-- Settles O41: the joystick payload has five bytes before its padding. -/
theorem joystickCompletes : Obligations.JoystickCompletes := by
  unfold Obligations.JoystickCompletes
  intro s x y buttonA buttonB a
  have h := envelopes_encJoystick x y buttonA buttonB s
  have hlen := chuckPayload_length s.params (axisByte x) (axisByte y) buttonA buttonB
  rw [← hlen]
  exact ⟨_, rfl, fun o => Laws.FirstByte.encJoystick x y buttonA buttonB o rfl s.params,
    h.exec_local, fun hp => h.exec_addressed_of_le hp a, fun hp => h.exec_addressed_of_gt hp a⟩

/-! ## The scaled field (R180) -/

section
variable {v : Binary32} {k : Nat}

theorem fxField_of_unrepresentable (h : finite v = false ∨ scaledInt v k < -(2 ^ 31) ∨ 2 ^ 31 - 1 < scaledInt v k) :
    fxField v k = .error (.valueOutOfRange v) := by
  have hfx : fx v k = none := by
    refine if_neg fun hfit => ?_
    simp only [fitsI32, Bool.and_eq_true, decide_eq_true_eq] at hfit
    obtain ⟨hfin, hlo, hhi⟩ := hfit
    rcases h with hnf | hlt | hgt
    · exact Bool.false_ne_true (hnf.symm.trans hfin)
    · exact absurd hlo (Int.not_le.mpr hlt)
    · exact absurd hhi (Int.not_le.mpr hgt)
  rw [fxField, hfx]

theorem fxField_of_representable (hfin : finite v = true) (hlo : -(2 ^ 31) ≤ scaledInt v k)
    (hhi : scaledInt v k ≤ 2 ^ 31 - 1) :
    fxField v k = .ok (be32 (BitVec.ofInt 32 (scaledInt v k))) := by
  have hfx : fx v k = some (be32 (BitVec.ofInt 32 (scaledInt v k))) := by
    refine if_pos ?_
    simp only [fitsI32, Bool.and_eq_true, decide_eq_true_eq]
    exact ⟨hfin, hlo, hhi⟩
  rw [fxField, hfx]

end

/-- A raise of `fx` comes before the envelope's length check (R194), so the payload is one computation for every address. -/
theorem bind_wrap_eq (c : Except BlockError (List Byte)) (g : List Byte → List Byte) (P : Params) (o : Option Byte) :
    c.bind (fun f => wrap P o (g f)) = (c.map g).bind (wrap P o) := by
  cases c <;> rfl

theorem envelopes_of_scaled {i : Option Byte → Instr} {c : Except BlockError (List Byte)} {g : List Byte → List Byte}
    (h : ∀ o, exec (i o) s = returnPayload (c.bind fun f => wrap s.params o (g f)) s) : Envelopes s i (c.map g) :=
  fun o => (h o).trans (congrArg (returnPayload · s) (bind_wrap_eq c g s.params o))

theorem envelopes_encSetCurrent (v : Binary32) (s : State) :
    Envelopes s (.encSetCurrent v) ((fxField v s.params.currentScale).map (setCurrentPayload s.params)) :=
  envelopes_of_scaled fun _ => rfl

theorem envelopes_encSetBrake (v : Binary32) (s : State) :
    Envelopes s (.encSetBrake v) ((fxField v s.params.brakeScale).map (setBrakePayload s.params)) :=
  envelopes_of_scaled fun _ => rfl

theorem envelopes_encSetDuty (v : Binary32) (s : State) :
    Envelopes s (.encSetDuty v) ((fxField v s.params.dutyScale).map (setDutyPayload s.params)) :=
  envelopes_of_scaled fun _ => rfl

theorem envelopes_encOpenloop (v : Binary32) (erpm : I32) (s : State) :
    Envelopes s (.encOpenloop v erpm)
      ((fxField v s.params.openloopCurrentScale).map (openloopPayload s.params · erpm)) :=
  envelopes_of_scaled fun _ => rfl

section
variable {i : Option Byte → Instr} {v : Binary32} {k : Nat} {hd tl : List Byte}
  (h : Envelopes s i ((fxField v k).map (hd ++ · ++ tl)))
include h

theorem Envelopes.exec_unrepresentable
    (hv : finite v = false ∨ scaledInt v k < -(2 ^ 31) ∨ 2 ^ 31 - 1 < scaledInt v k) (o : Option Byte) :
    exec (i o) s = .next (endedWith 7 (.valueOutOfRange v) s) := by
  rw [fxField_of_unrepresentable hv] at h
  exact h.exec_error o

/-- The field is the scaled integer in 32 bits, whose two's-complement value is that integer where it fits. -/
theorem Envelopes.ok_of_representable (hfin : finite v = true) (hlo : -(2 ^ 31) ≤ scaledInt v k)
    (hhi : scaledInt v k ≤ 2 ^ 31 - 1) :
    ∃ z : BitVec 32, z.toInt = scaledInt v k ∧ Envelopes s i (.ok (hd ++ be32 z ++ tl)) := by
  rw [fxField_of_representable hfin hlo hhi] at h
  exact ⟨_, BitVec.toInt_ofInt_eq_self (by decide) hlo (Int.lt_of_le_sub_one hhi), h⟩

end

/-- Settles O40: each of the four puts the field behind its identifier, and `ENC_OPENLOOP` the eRPM after it. -/
theorem scaledCommandsComplete : Obligations.ScaledCommandsComplete := by
  unfold Obligations.ScaledCommandsComplete
  intro s v erpm a op i k hd tl hi
  have hpayload : (∀ o, (encode s.params (i o)).head? = some op) ∧
      Envelopes s i ((fxField v k).map (hd ++ · ++ tl)) ∧ hd.length = 1 ∧ tl.length ≤ 4 := by
    rcases hi with ⟨rfl, rfl, rfl, rfl, rfl⟩ | ⟨rfl, rfl, rfl, rfl, rfl⟩ | ⟨rfl, rfl, rfl, rfl, rfl⟩ |
      ⟨rfl, rfl, rfl, rfl, rfl⟩
    · simp only [List.append_nil]
      exact ⟨fun o => Laws.FirstByte.encSetCurrent v o rfl s.params, envelopes_encSetCurrent v s, rfl, Nat.zero_le 4⟩
    · simp only [List.append_nil]
      exact ⟨fun o => Laws.FirstByte.encSetBrake v o rfl s.params, envelopes_encSetBrake v s, rfl, Nat.zero_le 4⟩
    · simp only [List.append_nil]
      exact ⟨fun o => Laws.FirstByte.encSetDuty v o rfl s.params, envelopes_encSetDuty v s, rfl, Nat.zero_le 4⟩
    · exact ⟨fun o => Laws.FirstByte.encOpenloop v erpm o rfl s.params, envelopes_encOpenloop v erpm s, rfl, Nat.le_refl 4⟩
  obtain ⟨hcode, henv, hhd, htl⟩ := hpayload
  refine ⟨hcode, fun hv => ⟨henv.exec_unrepresentable hv none, henv.exec_unrepresentable hv (some a)⟩,
    fun hfin hlo hhi => ?_⟩
  obtain ⟨z, hz, hok⟩ := henv.ok_of_representable hfin hlo hhi
  have hlen : (hd ++ be32 z ++ tl).length = 5 + tl.length := by
    rw [List.length_append, List.length_append, hhd, be32_length]
  refine ⟨z, hz, hok.exec_local, ?_⟩
  rw [hok.exec_addressed_of_le (by omega) a, envelope, hlen]
  simp only [List.append_assoc]

/-! ## All eight (R193) -/

/-- Settles O43: each of the eight envelopes a payload of its own, whatever computes it. -/
theorem envelopeCarriesTheLocalPayload : Obligations.EnvelopeCarriesTheLocalPayload := by
  unfold Obligations.EnvelopeCarriesTheLocalPayload
  intro s a i t w hi ht hw
  have henv : ∃ c, Envelopes s i c := by
    rcases hi with rfl | rfl | ⟨r, rfl⟩ | ⟨v, rfl⟩ | ⟨v, rfl⟩ | ⟨v, rfl⟩ | ⟨v, e, rfl⟩ | ⟨x, y, p, q, rfl⟩
    · exact ⟨_, envelopes_encGetValues s⟩
    · exact ⟨_, envelopes_encStop s⟩
    · exact ⟨_, envelopes_encSetRpm r s⟩
    · exact ⟨_, envelopes_encSetCurrent v s⟩
    · exact ⟨_, envelopes_encSetBrake v s⟩
    · exact ⟨_, envelopes_encSetDuty v s⟩
    · exact ⟨_, envelopes_encOpenloop v e s⟩
    · exact ⟨_, envelopes_encJoystick x y p q s⟩
  obtain ⟨c, h⟩ := henv
  obtain ⟨p, rfl, hp, hwrap⟩ := h.payload_of_addressed ht hw
  exact ⟨_, p, h.exec_local, rfl, hp, hwrap⟩

end Sys2Proof.Machine
end

section
/-! PROOFS. The telemetry decoder of 44_telemetry_decoder.md R223, R226 and R227. What the checks of a payload answer is said
once, without a state; an operation then ends with that answer. -/
namespace Sys2Proof.Machine

variable {P : Params} {s : State} {p r : List Byte} {b : Byte} {e : BlockError}

/-! ## The bytes of a field -/

theorem be16_ofBe16 (b0 b1 : Byte) : be16 (ofBe16 b0 b1) = [b0, b1] := by
  have h0 : (ofBe16 b0 b1).extractLsb' 8 8 = b0 := BitVec.extractLsb'_append_eq_left
  have h1 : (ofBe16 b0 b1).extractLsb' 0 8 = b1 := BitVec.extractLsb'_append_eq_right
  rw [be16, h0, h1]

/-- The first two of four bytes are the bytes of the upper half. -/
theorem be32_ofBe32 (b0 b1 b2 b3 : Byte) : be32 (ofBe32 b0 b1 b2 b3) = [b0, b1, b2, b3] := by
  have hupper {i : Nat} (hi : 16 ≤ i) :
      (ofBe32 b0 b1 b2 b3).extractLsb' i 8 = (ofBe16 b0 b1).extractLsb' (i - 8 - 8) 8 :=
    (BitVec.extractLsb'_append_eq_of_le (by omega)).trans (BitVec.extractLsb'_append_eq_of_le (by omega))
  have h0 : (ofBe32 b0 b1 b2 b3).extractLsb' 24 8 = b0 := (hupper (by decide)).trans BitVec.extractLsb'_append_eq_left
  have h1 : (ofBe32 b0 b1 b2 b3).extractLsb' 16 8 = b1 := (hupper (by decide)).trans BitVec.extractLsb'_append_eq_right
  have h2 : (ofBe32 b0 b1 b2 b3).extractLsb' 8 8 = b2 :=
    (BitVec.extractLsb'_append_eq_of_le (by decide)).trans BitVec.extractLsb'_append_eq_right
  have h3 : (ofBe32 b0 b1 b2 b3).extractLsb' 0 8 = b3 := BitVec.extractLsb'_append_eq_right
  rw [be32, h0, h1, h2, h3]

theorem drop_eq_byteAt_cons {o : Nat} (h : o < p.length) : p.drop o = byteAt p o :: p.drop (o + 1) := by
  rw [List.drop_eq_getElem_cons h, byteAt, List.getD_eq_getElem _ _ h]

theorem be16_getbe16 {o : Nat} (h : o + 2 ≤ p.length) : be16 (getbe16 p o) = (p.drop o).take 2 := by
  rw [getbe16, be16_ofBe16, drop_eq_byteAt_cons (o := o) (by omega), drop_eq_byteAt_cons (o := o + 1) (by omega)]
  rfl

theorem be32_getbe32 {o : Nat} (h : o + 4 ≤ p.length) : be32 (getbe32 p o) = (p.drop o).take 4 := by
  rw [getbe32, be32_ofBe32, drop_eq_byteAt_cons (o := o) (by omega), drop_eq_byteAt_cons (o := o + 1) (by omega),
    drop_eq_byteAt_cons (o := o + 2) (by omega), drop_eq_byteAt_cons (o := o + 3) (by omega)]
  rfl

theorem telemFieldBytes_telemOfPayload {L : Layout} (hlen : L.minLen ≤ p.length) (f : TelemField) :
    telemFieldBytes (telemOfPayload L p) f = (p.drop (L.offset f)).take f.bytes := by
  have hfield := (L.offset_add_bytes_le_minLen f).trans hlen
  cases f with
  | dutyCycleNow | inpVoltage => exact be16_getbe16 hfield
  | avgMotorCurrent | avgInputCurrent | rpm | ampHours | ampHoursCharged | tachometer | tachometerAbs =>
    exact be32_getbe32 hfield

theorem getElem?_telemFieldBytes_telemOfPayload {L : Layout} (hlen : L.minLen ≤ p.length) (f : TelemField) {k : Nat}
    (hk : k < f.bytes) : (telemFieldBytes (telemOfPayload L p) f)[k]? = p[L.offset f + k]? := by
  rw [telemFieldBytes_telemOfPayload hlen, List.getElem?_take_of_lt hk, List.getElem?_drop]

/-! ## `DEC_TELEMETRY` -/

theorem telemetryOf_nil : telemetryOf P [] = .error (.shortPayload 0) := rfl

theorem telemetryOf_of_wrongId (hcheck : P.checkResponseId = true) (hb : b ≠ P.idGetValues) (r : List Byte) :
    telemetryOf P (b :: r) = .error (.unexpectedResponse b) := by
  simp [telemetryOf, hcheck, hb]

section
variable (hid : P.checkResponseId = true → b = P.idGetValues)
include hid

theorem telemetryOf_of_lt (hlen : (b :: r).length < P.layout.minLen) :
    telemetryOf P (b :: r) = .error (.shortPayload (b :: r).length) := by
  rw [telemetryOf, if_neg (by simpa using hid), if_pos hlen]

theorem telemetryOf_of_le (hlen : P.layout.minLen ≤ (b :: r).length) :
    telemetryOf P (b :: r) = .ok (telemOfPayload P.layout (b :: r)) := by
  rw [telemetryOf, if_neg (by simpa using hid), if_neg (Nat.not_lt.mpr hlen)]

end

theorem exec_decTelemetry (p : List Byte) (s : State) :
    exec (.decTelemetry p) s = (decTelemetry p s).finish fun _ => .done := rfl

theorem exec_decTelemetry_of_error (h : telemetryOf s.params p = .error e) :
    exec (.decTelemetry p) s = .next (endedWith (errorCode e) e s) := by
  rw [exec_decTelemetry, decTelemetry, h]
  rfl

theorem exec_decTelemetry_of_ok {m : Telem} (h : telemetryOf s.params p = .ok m) :
    exec (.decTelemetry p) s = .next (ended 0 .done { s with telem := some m, tvalid := true }) := by
  rw [exec_decTelemetry, decTelemetry, h]
  rfl

/-- Settles O45: the checks pick the answer, and the record decoded holds the bytes at the layout's offsets. -/
theorem decTelemetryCompletes : Obligations.DecTelemetryCompletes := by
  unfold Obligations.DecTelemetryCompletes
  refine fun s p => ⟨Laws.FirstByte.decTelemetry p rfl s.params, ?_, ?_, ?_⟩
  · rintro rfl
    exact exec_decTelemetry_of_error telemetryOf_nil
  · rintro b r rfl hcheck hb
    exact exec_decTelemetry_of_error (telemetryOf_of_wrongId hcheck hb r)
  · rintro b r rfl hid
    exact ⟨fun hlen => exec_decTelemetry_of_error (telemetryOf_of_lt hid hlen),
      fun hlen => ⟨_, exec_decTelemetry_of_ok (telemetryOf_of_le hid hlen),
        fun f _ hk => getElem?_telemFieldBytes_telemOfPayload hlen f hk⟩⟩

/-! ## `DEC_SCAN_REPLY` -/

theorem scanReplyOf_nil : scanReplyOf P [] = .error (.shortPayload 0) := rfl

theorem scanReplyOf_of_wrongId (hcheck : P.checkResponseId = true) (hb : b ≠ P.idPingCan) (r : List Byte) :
    scanReplyOf P (b :: r) = .error (.unexpectedResponse b) := by
  simp [scanReplyOf, hcheck, hb]

theorem scanReplyOf_of_id (hid : P.checkResponseId = true → b = P.idPingCan) (r : List Byte) :
    scanReplyOf P (b :: r) = .ok r := by
  rw [scanReplyOf, if_neg (by simpa using hid)]

theorem exec_decScanReply (p : List Byte) (s : State) :
    exec (.decScanReply p) s = (callPure (scanReplyOf s.params p) s).finish .addrs := rfl

theorem exec_decScanReply_of_error (h : scanReplyOf s.params p = .error e) :
    exec (.decScanReply p) s = .next (endedWith (errorCode e) e s) := by
  rw [exec_decScanReply, h]
  rfl

theorem exec_decScanReply_of_ok (h : scanReplyOf s.params p = .ok r) :
    exec (.decScanReply p) s = .next (ended 0 (.addrs r) s) := by
  rw [exec_decScanReply, h]
  rfl

/-- Settles O47: the checks pick the answer. -/
theorem decScanReplyCompletes : Obligations.DecScanReplyCompletes := by
  unfold Obligations.DecScanReplyCompletes
  exact fun s => ⟨fun p => Laws.FirstByte.decScanReply p rfl s.params, exec_decScanReply_of_error scanReplyOf_nil,
    fun _ r hcheck hb => exec_decScanReply_of_error (scanReplyOf_of_wrongId hcheck hb r),
    fun _ r hid => exec_decScanReply_of_ok (scanReplyOf_of_id hid r)⟩

/-! ## `READ_TELEMETRY` -/

theorem execReadTelemetry_of_invalid (h : s.tvalid = false) :
    execReadTelemetry s = .next (ended 0 (.record none) s) := by
  rw [execReadTelemetry, if_neg (by simp [h])]
  rfl

theorem execReadTelemetry_of_valid (h : s.tvalid = true) : execReadTelemetry s =
    s.telem.elim (.fault .telemUnwritten) fun m => .next (ended 0 (.record (some m)) s) := by
  rw [execReadTelemetry, if_pos h]
  cases s.telem <;> rfl

/-- Settles O48: `TVALID` and then the record decide. -/
theorem readTelemetryCompletes : Obligations.ReadTelemetryCompletes := by
  unfold Obligations.ReadTelemetryCompletes
  refine fun s => ⟨Laws.FirstByte.readTelemetry rfl s.params, execReadTelemetry_of_invalid, fun m hvalid hm => ?_,
    fun hvalid hnone => ?_⟩
  · exact (execReadTelemetry_of_valid hvalid).trans (by rw [hm]; rfl)
  · exact (execReadTelemetry_of_valid hvalid).trans (by rw [hnone]; rfl)

end Sys2Proof.Machine
end

section
/-! PROOFS. The float view of 44_telemetry_decoder.md R224 and the rounding of 00_scope.md R15. Near a positive
quotient `a / d` the binary32 values are the multiples of a unit in the last place, `2^E` times `2^-149`. `rne32` gives the
nearest multiple; a finite binary32 that is none lies below all of 24 bits, so farther away than the least of them. -/
namespace Sys2Proof.Machine

/-! ## Rounding to an integer -/

/-- The rounded quotient is within half a divisor, and at exactly half it is even. -/
theorem roundHalfEven_dist (n : Nat) {d : Nat} (hd : 0 < d) :
    2 * |(roundHalfEven n d * d : Int) - n| ≤ d ∧
      (2 * |(roundHalfEven n d * d : Int) - n| = d → roundHalfEven n d % 2 = 0) := by
  have hdiv : n = n / d * d + n % d := (Nat.div_add_mod' n d).symm
  have hr : n % d < d := Nat.mod_lt n hd
  have hup : (n / d + 1) * d = n / d * d + d := Nat.succ_mul _ d
  rw [← Nat.cast_mul, Int.abs_eq_natAbs]
  simp only [roundHalfEven]
  split_ifs with hlow hhigh
  · omega
  · omega
  · rcases Nat.mod_two_eq_zero_or_one (n / d) with h | h
    · rw [h, Nat.add_zero]
      omega
    · rw [h]
      omega

/-- No multiple of the divisor is nearer than the rounded quotient's, and of two equally near the even one is taken. -/
theorem roundHalfEven_nearest (n : Nat) {d : Nat} (hd : 0 < d) (k : Int) :
    |(roundHalfEven n d * d : Int) - n| ≤ |k * d - n| ∧
      (|(roundHalfEven n d * d : Int) - n| = |k * d - n| → k ≠ roundHalfEven n d → roundHalfEven n d % 2 = 0) := by
  obtain ⟨hle, htie⟩ := roundHalfEven_dist n hd
  rcases eq_or_ne k (roundHalfEven n d) with rfl | hk
  · exact ⟨le_rfl, fun _ h => absurd rfl h⟩
  · have hapart : (d : Int) ≤ |k * d - n| + |(roundHalfEven n d * d : Int) - n| := by
      calc (d : Int) ≤ |k - roundHalfEven n d| * |(d : Int)| := by
            rw [Nat.abs_cast]
            exact le_mul_of_one_le_left (Int.natCast_nonneg d) (Int.one_le_abs (sub_ne_zero.2 hk))
        _ = |(k * d - n) - (roundHalfEven n d * d - n)| := by rw [← abs_mul, sub_mul, sub_sub_sub_cancel_right]
        _ ≤ _ := abs_sub _ _
    exact ⟨by omega, fun heq _ => htie (by omega)⟩

theorem roundHalfEven_mul_right (n d : Nat) {c : Nat} (hc : 0 < c) :
    roundHalfEven (n * c) (d * c) = roundHalfEven n d := by
  simp only [roundHalfEven, Nat.mul_div_mul_right _ _ hc, Nat.mul_mod_mul_right, ← mul_assoc, Nat.mul_lt_mul_right hc]

theorem roundHalfEven_mem_Icc (n d : Nat) : roundHalfEven n d ∈ Set.Icc (n / d) (n / d + 1) := by
  simp only [roundHalfEven, Set.mem_Icc]
  split_ifs <;> omega

theorem le_roundHalfEven {n d k : Nat} (hd : 0 < d) (h : k * d ≤ n) : k ≤ roundHalfEven n d :=
  ((Nat.le_div_iff_mul_le hd).2 h).trans (roundHalfEven_mem_Icc n d).1

theorem roundHalfEven_le {n d k : Nat} (h : n < k * d) : roundHalfEven n d ≤ k :=
  (roundHalfEven_mem_Icc n d).2.trans (Nat.div_lt_of_lt_mul (mul_comm k d ▸ h))

/-- Of the numbers `y` of at most 24 significant bits none is nearer to `n / d` than the nearest multiple of `2^E`, if that
unit is the least there is or `n / d` is at least `2^23` units: a `y` that is no multiple of the unit is below that. -/
theorem roundHalfEven_nearest_of_24_bits {n d E j : Nat} {k y : Int} (hd : 0 < d)
    (hnormal : 0 < E → 2 ^ 23 * (d * 2 ^ E) ≤ n) (hk : |k| < 2 ^ 24) (hy : y = k * 2 ^ j) :
    let m := roundHalfEven n (d * 2 ^ E)
    |(m * 2 ^ E * d : Int) - n| ≤ |y * d - n| ∧
      (|(m * 2 ^ E * d : Int) - n| = |y * d - n| → y ≠ m * 2 ^ E → m % 2 = 0) := by
  intro m
  have hnearest (l : Int) : |(m * 2 ^ E * d : Int) - n| ≤ |l * 2 ^ E * d - n| ∧
      (|(m * 2 ^ E * d : Int) - n| = |l * 2 ^ E * d - n| → l ≠ m → m % 2 = 0) := by
    have h := roundHalfEven_nearest n (Nat.mul_pos hd (Nat.two_pow_pos E)) l
    push_cast at h
    simpa only [mul_assoc, mul_comm (d : Int)] using h
  rcases Nat.lt_or_ge j E with hj | hj
  · have hsmall : y < 2 ^ 23 * 2 ^ E := by
      calc y = k * 2 ^ j := hy
        _ < 2 ^ 24 * 2 ^ j := mul_lt_mul_of_pos_right (lt_of_abs_lt hk) (by positivity)
        _ = 2 ^ (24 + j) := (pow_add _ _ _).symm
        _ ≤ 2 ^ (23 + E) := pow_le_pow_right₀ (by decide) (by omega)
        _ = 2 ^ 23 * 2 ^ E := pow_add _ _ _
    have hbelow : y * d < 2 ^ 23 * 2 ^ E * d := mul_lt_mul_of_pos_right hsmall (mod_cast hd)
    have hleast : (2 ^ 23 * 2 ^ E * d : Int) ≤ n := by
      rw [mul_assoc, mul_comm _ (d : Int)]
      exact_mod_cast hnormal (by omega)
    have hlt : |(m * 2 ^ E * d : Int) - n| < |y * d - n| := by
      refine (hnearest (2 ^ 23)).1.trans_lt ?_
      rw [abs_of_nonpos (sub_nonpos.2 hleast), abs_of_neg (sub_neg.2 (hbelow.trans_le hleast))]
      exact neg_lt_neg (sub_lt_sub_right hbelow _)
    exact ⟨hlt.le, fun h => absurd h hlt.ne⟩
  · have hmultiple : y = k * 2 ^ (j - E) * 2 ^ E := by rw [hy, mul_assoc, ← pow_add, Nat.sub_add_cancel hj]
    rw [hmultiple]
    obtain ⟨hle, htie⟩ := hnearest (k * 2 ^ (j - E))
    exact ⟨hle, fun h hne => htie h fun heq => hne (by rw [heq])⟩

/-! ## The exponent of a quotient -/

/-- Only the difference of the two exponents counts. -/
theorem mul_two_pow_le_iff_of_add_eq {x y x' y' : Nat} (h : x + y' = x' + y) (a d : Nat) :
    d * 2 ^ x ≤ a * 2 ^ y ↔ d * 2 ^ x' ≤ a * 2 ^ y' := by
  calc d * 2 ^ x ≤ a * 2 ^ y
    _ ↔ d * 2 ^ x * 2 ^ y' ≤ a * 2 ^ y * 2 ^ y' := (Nat.mul_le_mul_right_iff (Nat.two_pow_pos y')).symm
    _ ↔ d * 2 ^ x' * 2 ^ y ≤ a * 2 ^ y' * 2 ^ y := by
      rw [mul_assoc, mul_assoc, mul_assoc, mul_assoc, ← pow_add, ← pow_add, ← pow_add, ← pow_add, h, Nat.add_comm y y']
    _ ↔ d * 2 ^ x' ≤ a * 2 ^ y' := Nat.mul_le_mul_right_iff (Nat.two_pow_pos y)

/-- `leadExponent a d` is the greatest `e` with `2^e ≤ a / d`. -/
theorem mul_two_pow_le_iff {a d : Nat} (ha : 0 < a) (hd : 0 < d) (x y : Nat) :
    d * 2 ^ x ≤ a * 2 ^ y ↔ (x : Int) - y ≤ leadExponent a d := by
  rcases lt_trichotomy (x + d.log2) (a.log2 + y) with hlt | heq | hgt
  · have hle : d * 2 ^ x ≤ a * 2 ^ y := by
      calc d * 2 ^ x ≤ 2 ^ (d.log2 + 1) * 2 ^ x := Nat.mul_le_mul_right _ Nat.lt_log2_self.le
        _ = 2 ^ (d.log2 + 1 + x) := (pow_add _ _ _).symm
        _ ≤ 2 ^ (a.log2 + y) := Nat.pow_le_pow_right two_pos (by omega)
        _ = 2 ^ a.log2 * 2 ^ y := pow_add _ _ _
        _ ≤ a * 2 ^ y := Nat.mul_le_mul_right _ (Nat.log2_self_le ha.ne')
    refine iff_of_true hle ?_
    simp only [leadExponent]
    split_ifs <;> omega
  · rw [mul_two_pow_le_iff_of_add_eq (x' := ((a.log2 : Int) - d.log2).toNat) (y' := (-((a.log2 : Int) - d.log2)).toNat)
      (by omega) a d]
    simp only [leadExponent]
    split_ifs with htest
    · exact iff_of_true htest (by omega)
    · exact iff_of_false htest (by omega)
  · have hlt : a * 2 ^ y < d * 2 ^ x := by
      calc a * 2 ^ y < 2 ^ (a.log2 + 1) * 2 ^ y := Nat.mul_lt_mul_of_pos_right Nat.lt_log2_self (Nat.two_pow_pos y)
        _ = 2 ^ (a.log2 + 1 + y) := (pow_add _ _ _).symm
        _ ≤ 2 ^ (d.log2 + x) := Nat.pow_le_pow_right two_pos (by omega)
        _ = 2 ^ d.log2 * 2 ^ x := pow_add _ _ _
        _ ≤ d * 2 ^ x := Nat.mul_le_mul_right _ (Nat.log2_self_le hd.ne')
    refine iff_of_false (Nat.not_le.2 hlt) ?_
    simp only [leadExponent]
    split_ifs <;> omega

/-- The exponent, in units of `2^-149`, of the unit in the last place of the binary32 values near `a / d`. -/
def ulpExponent (a d : Nat) : Nat := (max (leadExponent a d) (-126) + 126).toNat

/-- `a / d` in units in the last place, rounded. -/
def roundedSignificand (a d : Nat) : Nat := roundHalfEven (a * 2 ^ 149) (d * 2 ^ ulpExponent a d)

theorem rneMagnitude_eq {a : Nat} (ha : 0 < a) (d : Nat) :
    rneMagnitude a d = min (ulpExponent a d * 2 ^ 23 + roundedSignificand a d) 0x7F800000 := by
  simp only [rneMagnitude, if_neg ha.ne', ulpExponent, roundedSignificand]
  generalize hE : (max (leadExponent a d) (-126) + 126).toNat = E
  generalize hq : max (leadExponent a d) (-126) - 23 = q
  have hnum : a * 2 ^ 149 = a * 2 ^ (-q).toNat * 2 ^ min E 149 := by
    rw [mul_assoc, ← pow_add]
    congr 2
    omega
  have hden : d * 2 ^ E = d * 2 ^ q.toNat * 2 ^ min E 149 := by
    rw [mul_assoc, ← pow_add]
    congr 2
    omega
  rw [hnum, hden, roundHalfEven_mul_right _ _ (Nat.two_pow_pos _)]

section
variable {a d : Nat} (ha : 0 < a) (hd : 0 < d)
include ha hd

theorem mul_two_pow_149_lt : a * 2 ^ 149 < 2 ^ 24 * (d * 2 ^ ulpExponent a d) := by
  rw [mul_left_comm, ← pow_add, ← Nat.not_le, mul_two_pow_le_iff ha hd]
  simp only [ulpExponent]
  omega

theorem le_mul_two_pow_149 (hE : 0 < ulpExponent a d) : 2 ^ 23 * (d * 2 ^ ulpExponent a d) ≤ a * 2 ^ 149 := by
  rw [mul_left_comm, ← pow_add, mul_two_pow_le_iff ha hd]
  simp only [ulpExponent] at hE ⊢
  omega

theorem roundedSignificand_le : roundedSignificand a d ≤ 2 ^ 24 := roundHalfEven_le (mul_two_pow_149_lt ha hd)

theorem le_roundedSignificand (hE : 0 < ulpExponent a d) : 2 ^ 23 ≤ roundedSignificand a d :=
  le_roundHalfEven (Nat.mul_pos hd (Nat.two_pow_pos _)) (le_mul_two_pow_149 ha hd hE)

theorem ulpExponent_le (h : a < d * 2 ^ 127) : ulpExponent a d ≤ 252 := by
  have hlead := (mul_two_pow_le_iff ha hd 127 0).not.1 (by omega)
  simp only [ulpExponent]
  omega

end

/-! ## The fields of a binary32 -/

theorem toNat_extractLsb'_exponent (v : Binary32) : (v.extractLsb' 23 8).toNat = v.toNat / 2 ^ 23 % 2 ^ 8 := by
  rw [BitVec.extractLsb'_toNat, Nat.shiftRight_eq_div_pow]

theorem toNat_extractLsb'_fraction (v : Binary32) : (v.extractLsb' 0 23).toNat = v.toNat % 2 ^ 23 :=
  BitVec.extractLsb'_toNat 0 23 v

/-- The value of a finite binary32 has at most 24 significant bits. -/
theorem real149_eq_mul_two_pow (v : Binary32) : ∃ k : Int, ∃ j : Nat, |k| < 2 ^ 24 ∧ real149 v = k * 2 ^ j := by
  have hf := (v.extractLsb' 0 23).isLt
  simp only [real149]
  generalize (v.extractLsb' 23 8).toNat = e
  generalize (v.extractLsb' 0 23).toNat = f at hf
  have hm : (if e = 0 then f else 2 ^ 23 + f) < 2 ^ 24 := by split <;> omega
  generalize (if e = 0 then f else 2 ^ 23 + f) = m at hm
  cases v.msb
  · exact ⟨m, max e 1 - 1, by rw [Nat.abs_cast]; exact_mod_cast hm, by simp⟩
  · exact ⟨-m, max e 1 - 1, by rw [abs_neg, Nat.abs_cast]; exact_mod_cast hm, by simp⟩

section
variable {b : Nat}

theorem toNat_ofNat_32 (hb : b < 2 ^ 31) : (BitVec.ofNat 32 b).toNat = b := by
  rw [BitVec.toNat_ofNat, Nat.mod_eq_of_lt (by omega)]

theorem msb_ofNat_32 (hb : b < 2 ^ 31) : (BitVec.ofNat 32 b).msb = false := by
  rw [BitVec.msb_eq_decide, toNat_ofNat_32 hb]
  exact decide_eq_false (by omega)

theorem finite_ofNat (hb : b < 0x7F800000) : finite (BitVec.ofNat 32 b) = true := by
  simp only [finite, ne_eq, decide_not, Bool.not_eq_true', decide_eq_false_iff_not, ← BitVec.toNat_inj,
    toNat_extractLsb'_exponent, toNat_ofNat_32 (show b < 2 ^ 31 by omega), BitVec.toNat_ofNat]
  omega

end

section
variable {f : Nat} (hf : f < 2 ^ 23)
include hf

theorem real149_subnormal : real149 (BitVec.ofNat 32 f) = f := by
  have hb : f < 2 ^ 31 := by omega
  have hexp : f / 2 ^ 23 % 2 ^ 8 = 0 := by omega
  simp only [real149, toNat_extractLsb'_exponent, toNat_extractLsb'_fraction, toNat_ofNat_32 hb, msb_ofNat_32 hb, hexp,
    Nat.mod_eq_of_lt hf]
  simp

theorem real149_normal {e : Nat} (he : e + 1 < 2 ^ 8) :
    real149 (BitVec.ofNat 32 ((e + 1) * 2 ^ 23 + f)) = (2 ^ 23 + f) * 2 ^ e := by
  have hb : (e + 1) * 2 ^ 23 + f < 2 ^ 31 := by omega
  have hexp : ((e + 1) * 2 ^ 23 + f) / 2 ^ 23 % 2 ^ 8 = e + 1 := by omega
  have hfrac : ((e + 1) * 2 ^ 23 + f) % 2 ^ 23 = f := by omega
  simp only [real149, toNat_extractLsb'_exponent, toNat_extractLsb'_fraction, toNat_ofNat_32 hb, msb_ofNat_32 hb, hexp,
    hfrac]
  simp

end

/-- A significand below `2^23` is subnormal, one of 24 bits stands at the exponent `E`, and `2^24` carries into the next. -/
theorem real149_ofNat {E m : Nat} (hE : E ≤ 252) (hm : m ≤ 2 ^ 24) (hnormal : 0 < E → 2 ^ 23 ≤ m) :
    real149 (BitVec.ofNat 32 (E * 2 ^ 23 + m)) = m * 2 ^ E := by
  rcases Nat.lt_or_ge m (2 ^ 23) with hlt | hge
  · obtain rfl : E = 0 := by omega
    rw [Nat.zero_mul, Nat.zero_add, real149_subnormal hlt, pow_zero, mul_one]
  · rcases hm.lt_or_eq with hlt | rfl
    · rw [show E * 2 ^ 23 + m = (E + 1) * 2 ^ 23 + (m - 2 ^ 23) by omega, real149_normal (by omega) (by omega),
        Nat.cast_sub hge]
      push_cast
      ring
    · rw [show E * 2 ^ 23 + 2 ^ 24 = (E + 1 + 1) * 2 ^ 23 + 0 by omega, real149_normal (by decide) (by omega), pow_succ]
      push_cast
      ring

theorem exponent_xor_sign (v : Binary32) : (v ^^^ 0x80000000#32).extractLsb' 23 8 = v.extractLsb' 23 8 := by
  simp [BitVec.extractLsb'_xor]

theorem real149_xor_sign (v : Binary32) : real149 (v ^^^ 0x80000000#32) = -real149 v := by
  have hf : (v ^^^ 0x80000000#32).extractLsb' 0 23 = v.extractLsb' 0 23 := by simp [BitVec.extractLsb'_xor]
  have hs : (v ^^^ 0x80000000#32).msb = !v.msb := by rw [BitVec.msb_xor]; exact Bool.xor_true _
  simp only [real149, exponent_xor_sign, hf, hs]
  cases v.msb <;> simp

theorem finite_xor_sign (v : Binary32) : finite (v ^^^ 0x80000000#32) = finite v := by
  simp only [finite, exponent_xor_sign]

theorem or_sign_eq_xor_sign {v : Binary32} (h : v.msb = false) : v ||| 0x80000000#32 = v ^^^ 0x80000000#32 := by
  ext i hi
  rw [BitVec.getElem_or, BitVec.getElem_xor]
  by_cases h31 : i = 31
  · subst h31
    have hv : v[31] = false := h
    simp [hv]
  · have hsign : (0x80000000#32)[i] = false := by
      rw [show 0x80000000#32 = BitVec.twoPow 32 31 by decide, BitVec.getElem_twoPow]
      exact decide_eq_false h31
    simp [hsign]

/-! ## The nearest binary32 -/

/-- `v` is finite, no finite binary32 is nearer to `n / d`, and where one of another value is equally near, the significand
of `v` is even. -/
def IsNearest (v : Binary32) (n : Int) (d : Nat) : Prop :=
  finite v = true ∧ ∀ w : Binary32, finite w = true →
    |real149 v * d - n * 2 ^ 149| ≤ |real149 w * d - n * 2 ^ 149| ∧
    (|real149 v * d - n * 2 ^ 149| = |real149 w * d - n * 2 ^ 149| → real149 w ≠ real149 v → v.getLsbD 0 = false)

/-- A change of sign is a symmetry of the finite values. -/
theorem IsNearest.xor_sign {v : Binary32} {n : Int} {d : Nat} (h : IsNearest v n d) :
    IsNearest (v ^^^ 0x80000000#32) (-n) d := by
  obtain ⟨hfin, hnearest⟩ := h
  refine ⟨(finite_xor_sign v).trans hfin, fun w hw => ?_⟩
  have hneg (x : Int) : |-x * d - -n * 2 ^ 149| = |x * d - n * 2 ^ 149| := by
    rw [neg_mul, neg_mul, ← neg_sub', abs_neg]
  have hmirror : real149 w = -real149 (w ^^^ 0x80000000#32) := by rw [real149_xor_sign, neg_neg]
  have hlow : (v ^^^ 0x80000000#32).getLsbD 0 = v.getLsbD 0 := by rw [BitVec.getLsbD_xor]; exact Bool.xor_false _
  rw [hmirror, real149_xor_sign, hneg, hneg, neg_inj.ne, hlow]
  exact hnearest _ ((finite_xor_sign w).trans hw)

theorem isNearest_rneMagnitude {a d : Nat} (hd : 0 < d) (h : a < d * 2 ^ 127) :
    rneMagnitude a d < 0x7F800000 ∧ IsNearest (BitVec.ofNat 32 (rneMagnitude a d)) a d := by
  rcases Nat.eq_zero_or_pos a with rfl | ha
  · have hzero : rneMagnitude 0 d = 0 := if_pos rfl
    rw [hzero]
    refine ⟨by decide, by decide, fun w _ => ⟨?_, fun _ _ => rfl⟩⟩
    have hreal : real149 (BitVec.ofNat 32 0) = 0 := by decide
    rw [hreal, Nat.cast_zero, zero_mul, zero_mul, sub_zero, abs_zero]
    exact abs_nonneg _
  · have hE := ulpExponent_le ha hd h
    have hm := roundedSignificand_le ha hd
    have hbits : ulpExponent a d * 2 ^ 23 + roundedSignificand a d < 0x7F800000 := by omega
    rw [rneMagnitude_eq ha, min_eq_left hbits.le]
    refine ⟨hbits, finite_ofNat hbits, fun w _ => ?_⟩
    obtain ⟨k, j, hk, hw⟩ := real149_eq_mul_two_pow w
    rw [real149_ofNat hE hm (le_roundedSignificand ha hd)]
    obtain ⟨hle, htie⟩ := roundHalfEven_nearest_of_24_bits hd (le_mul_two_pow_149 ha hd) hk hw
    rw [Nat.cast_mul, Nat.cast_pow] at hle htie
    refine ⟨hle, fun heq hne => ?_⟩
    have heven : roundedSignificand a d % 2 = 0 := htie heq hne
    rw [BitVec.getLsbD_ofNat, Nat.testBit_zero]
    simp only [Nat.ofNat_pos, decide_true, Bool.true_and, decide_eq_false_iff_not]
    omega

theorem isNearest_rne32 {n : Int} {d : Nat} (hd : 0 < d) (h : n.natAbs < d * 2 ^ 127) : IsNearest (rne32 n d) n d := by
  obtain ⟨hbits, hnearest⟩ := isNearest_rneMagnitude hd h
  simp only [rne32]
  split_ifs with hn
  · rw [or_sign_eq_xor_sign (msb_ofNat_32 (by omega))]
    have hneg := hnearest.xor_sign
    rwa [show -(n.natAbs : Int) = n by omega] at hneg
  · rwa [show (n.natAbs : Int) = n by omega] at hnearest

/-! ## The telemetry fields -/

theorem telemScale_pos (f : TelemField) : 0 < f.scale := by cases f <;> decide

theorem telemRaw_mem_Ico (m : Telem) (f : TelemField) : telemRaw m f ∈ Set.Ico (-2 ^ 31) (2 ^ 31) := by
  have hword (v : BitVec 32) : v.toInt ∈ Set.Ico (-2 ^ 31) (2 ^ 31) := ⟨v.le_toInt, v.toInt_lt⟩
  have hhalf (v : BitVec 16) : v.toInt ∈ Set.Ico (-2 ^ 31) (2 ^ 31) :=
    ⟨le_trans (by decide) v.le_toInt, v.toInt_lt.trans (by decide)⟩
  cases f with
  | dutyCycleNow | inpVoltage => exact hhalf _
  | avgMotorCurrent | avgInputCurrent | rpm | ampHours | ampHoursCharged | tachometer | tachometerAbs => exact hword _

/-- Settles O49: a raw value of 32 bits is far below the greatest binary32. -/
theorem floatViewIsCorrectlyRounded : Obligations.FloatViewIsCorrectlyRounded := by
  unfold Obligations.FloatViewIsCorrectlyRounded
  intro m f
  obtain ⟨hlo, hhi⟩ := telemRaw_mem_Ico m f
  refine ⟨fun hscale => ⟨_, if_pos hscale, ?_⟩, fun hscale => ⟨_, if_neg hscale, ?_⟩⟩
  · exact BitVec.toInt_ofInt_eq_self (by decide) hlo hhi
  · have hd := telemScale_pos f
    exact isNearest_rne32 hd (by omega)

end Sys2Proof.Machine
end

section
/-! PROOFS. The composite operations of 45_host_operations.md R250 to R260, step by step: a command or a request up to its
sent frame, the read of a request's deadline, and how a request ends on a frame. -/
namespace Sys2Proof.Machine

variable {s : State} {p : List Byte} {e : BlockError}

/-! ## Fire-and-forget commands (R254 to R260) -/

/-- A command has sent the frame of `p` and returned the count the sink accepted. -/
def commandSent (p : List Byte) (s : State) : State :=
  ended 0 (.count (BitVec.ofNat 17 (txCountOf (frame s.params p) s))) (afterSend p s)

theorem sendCommand_of_absent (ht : s.transportPresent = false) (c : Except BlockError (List Byte)) :
    sendCommand c s = .next (endedWith 6 .transportUnavailable s) := by
  rw [sendCommand, needTransport, if_neg (ht ▸ Bool.false_ne_true)]
  rfl

section
variable (ht : s.transportPresent = true)
include ht

theorem sendCommand_of_error (e : BlockError) : sendCommand (.error e) s = .next (endedWith (errorCode e) e s) := by
  rw [sendCommand, needTransport, if_pos ht]
  rfl

theorem sendCommand_of_ok (p : List Byte) : sendCommand (.ok p) s = (frameSend p s).finish fun r => .count r.2 := by
  rw [sendCommand, needTransport, if_pos ht]
  rfl

theorem sendCommand_of_gt (hp : maxPayload < p.length) :
    sendCommand (.ok p) s = .next (endedWith 1 (.encodingTooLarge p.length) s) := by
  rw [sendCommand_of_ok ht, frameSend_of_gt ht hp]
  rfl

theorem sendCommand_of_le (hp : p.length ≤ maxPayload) : sendCommand (.ok p) s = .next (commandSent p s) := by
  rw [sendCommand_of_ok ht, frameSend_of_le ht hp]
  rfl

end

/-- In the state `s` the command `send` sends the payload `c` that the command operation `enc` returns, or both raise its
error. -/
def Sends (s : State) (send enc : Instr) (c : Except BlockError (List Byte)) : Prop :=
  exec send s = sendCommand c s ∧ exec enc s = returnPayload c s

/-- Settles O50: each command computes the payload, or the error, of its command operation. -/
theorem sendCommandsComplete : Obligations.SendCommandsComplete := by
  unfold Obligations.SendCommandsComplete
  intro s op send enc hrow
  have hsends : (encode s.params send).head? = some op ∧ ∃ c, Sends s send enc c := by
    rcases hrow with ⟨v, a, rfl, rfl, rfl⟩ | ⟨v, a, rfl, rfl, rfl⟩ | ⟨r, a, rfl, rfl, rfl⟩ | ⟨v, a, rfl, rfl, rfl⟩ |
      ⟨x, y, p, q, a, rfl, rfl, rfl⟩ | ⟨v, e, a, rfl, rfl, rfl⟩ | ⟨a, rfl, rfl, rfl⟩
    · exact ⟨Laws.FirstByte.sendCurrent v a rfl s.params, _, rfl, rfl⟩
    · exact ⟨Laws.FirstByte.sendBrakeCurrent v a rfl s.params, _, rfl, rfl⟩
    · exact ⟨Laws.FirstByte.sendRpm r a rfl s.params, _, rfl, rfl⟩
    · exact ⟨Laws.FirstByte.sendDuty v a rfl s.params, _, rfl, rfl⟩
    · exact ⟨Laws.FirstByte.sendJoystick x y p q a rfl s.params, _, rfl, rfl⟩
    · exact ⟨Laws.FirstByte.runOpenloop v e a rfl s.params, _, rfl, rfl⟩
    · exact ⟨Laws.FirstByte.stop a rfl s.params, _, rfl, rfl⟩
  obtain ⟨hcode, c, hsend, henc⟩ := hsends
  rw [hsend, henc]
  refine ⟨hcode, fun ht => sendCommand_of_absent ht c, fun ht => ?_⟩
  cases c with
  | error e => exact .inl ⟨e, errorCode e, rfl, sendCommand_of_error ht e⟩
  | ok p => exact .inr ⟨p, rfl, sendCommand_of_gt ht, sendCommand_of_le ht⟩

section
variable (ht : s.transportPresent = true)
include ht

/-- A payload that fits an envelope fits a frame, with the envelope or without. -/
theorem sendCommand_wrap (hp : p.length ≤ 255) (o : Option Byte) :
    ∃ w, sendCommand (wrap s.params o p) s = .next (commandSent w s) := by
  cases o with
  | none => exact ⟨p, sendCommand_of_le ht (hp.trans (by decide))⟩
  | some a =>
    have hlen : (envelope s.params a p).length ≤ maxPayload := by
      rw [envelope, List.length_append]
      exact (Nat.add_le_add_left hp 3).trans (by decide)
    exact ⟨_, (congrArg (sendCommand · s) (wrap_of_le hp)).trans (sendCommand_of_le ht hlen)⟩

theorem sendCommand_scaled {v : Binary32} {k : Nat} (hfin : finite v = true) (hlo : -(2 ^ 31) ≤ scaledInt v k)
    (hhi : scaledInt v k ≤ 2 ^ 31 - 1) {g : List Byte → List Byte} (hg : ∀ z, (g (be32 z)).length ≤ 255)
    (o : Option Byte) :
    ∃ w, sendCommand ((fxField v k).bind fun f => wrap s.params o (g f)) s = .next (commandSent w s) := by
  rw [fxField_of_representable hfin hlo hhi]
  exact sendCommand_wrap ht (hg _) o

end

/-- Settles O51: a value in range has a field, and the payload with it is far below what an envelope holds. -/
theorem sendCommandsInRangeComplete : Obligations.SendCommandsInRangeComplete := by
  unfold Obligations.SendCommandsInRangeComplete
  intro s v e r x y bp bq a ht
  refine ⟨fun i k hi hfin hlo hhi => ?_, sendCommand_wrap ht (p := setRpmPayload s.params r) (by decide : 5 ≤ 255) a,
    sendCommand_wrap ht (p := stopPayload s.params) (by decide : 1 ≤ 255) a, fun hpad => ?_⟩
  · have hscaled {g : List Byte → List Byte} (hg : ∀ z, (g (be32 z)).length ≤ 255) :=
      sendCommand_scaled ht hfin hlo hhi hg a
    rcases hi with ⟨rfl, rfl⟩ | ⟨rfl, rfl⟩ | ⟨rfl, rfl⟩ | ⟨rfl, rfl⟩
    · exact hscaled (g := setCurrentPayload s.params) fun _ => (by decide : 5 ≤ 255)
    · exact hscaled (g := setBrakePayload s.params) fun _ => (by decide : 5 ≤ 255)
    · exact hscaled (g := setDutyPayload s.params) fun _ => (by decide : 5 ≤ 255)
    · exact hscaled (g := (openloopPayload s.params · e)) fun _ => (by decide : 9 ≤ 255)
  · exact sendCommand_wrap ht ((chuckPayload_length s.params (axisByte x) (axisByte y) bp bq).trans_le hpad) a

/-! ## Requests up to their deadline (R251 to R253) -/

/-- A request has sent the frame of `p`; its deadline is still to be read. -/
def requestSent (r : Receiver) (p : List Byte) (s : State) : State := { afterSend p s with activity := .sent r }

theorem sendRequest_of_le (ht : s.transportPresent = true) (hp : p.length ≤ maxPayload) (r : Receiver) :
    sendRequest (.ok p) r s = .next (requestSent r p s) := by
  have hcall : needTransport s ((callPure (.ok p) s).andThen frameSend) = frameSend p s := if_pos ht
  rw [sendRequest, hcall, frameSend_of_le ht hp]
  rfl

/-- The payload of `REQUEST_TELEMETRY` (43_command_codec.md R183). -/
def requestPayload (P : Params) : Option Byte → List Byte
  | none => [P.idGetValues]
  | some a => [P.idForward, a, 1, P.idGetValues]

theorem encGetValues_eq (P : Params) (o : Option Byte) : encGetValues P o = .ok (requestPayload P o) := by
  cases o <;> rfl

theorem requestPayload_length_le (P : Params) (o : Option Byte) : (requestPayload P o).length ≤ maxPayload := by
  cases o with
  | none => exact (by decide : 1 ≤ maxPayload)
  | some a => exact (by decide : 4 ≤ maxPayload)

theorem exec_requestTelemetry (ht : s.transportPresent = true) (o : Option Byte) :
    exec (.requestTelemetry o) s = .next (requestSent .requestTelemetry (requestPayload s.params o) s) := by
  change sendRequest (encGetValues s.params o) _ s = _
  rw [encGetValues_eq]
  exact sendRequest_of_le ht (requestPayload_length_le s.params o) _

theorem exec_scanForControllers (ht : s.transportPresent = true) :
    exec .scanForControllers s = .next (requestSent .scanForControllers (scanPayload s.params) s) :=
  sendRequest_of_le ht (p := scanPayload s.params) (by decide : 1 ≤ maxPayload) _

/-- Settles O53: the payloads of both requests fit a frame. -/
theorem requestsSendTheirFrame : Obligations.RequestsSendTheirFrame := by
  unfold Obligations.RequestsSendTheirFrame
  exact fun _ a ht => ⟨exec_requestTelemetry ht none, exec_requestTelemetry ht (some a), exec_scanForControllers ht⟩

/-- The state in which a request begins its receive, the deadline `d` read. -/
def armed (d : Nat) (r : Receiver) (s : State) : State :=
  { s with deadline := d, rxst := .seekStart, rxcnt := 0, activity := .receiving r }

theorem blockStep_sent {r : Receiver} (ht : s.transportPresent = true) (ha : s.activity = .sent r) :
    blockStep s = .next (armed (s.clock + s.params.rxTimeout) r s) := by
  rw [blockStep, ha, startReceive, needTransport, if_pos ht]
  rfl

/-- Settles O54: with a transport the receive starts. -/
theorem deadlineIsReadAfterTheWrite : Obligations.DeadlineIsReadAfterTheWrite := by
  unfold Obligations.DeadlineIsReadAfterTheWrite
  exact fun _ _ ht ha => blockStep_sent ht ha

/-! ## The end of a request (R252, R253) -/

/-- The result of a telemetry request is returned and stored, and `CRC` is that of the reply `p`. -/
def recordReturned (m : Telem) (p : List Byte) (s : State) : State :=
  ended 0 (.telem m) { s with crc := crc16 p, telem := some m, tvalid := true }

/-- The result of a scan is returned, and `CRC` is that of the reply `p`. -/
def addrsReturned (l p : List Byte) (s : State) : State := ended 0 (.addrs l) { s with crc := crc16 p }

section
variable {crc : BitVec 16}

theorem rxValidate_of_ne (hc : crc16 p ≠ crc) (s : State) :
    rxValidate p crc s = .raised (.crcMismatch crc (crc16 p)) { s with crc := crc16 p } := if_neg hc

theorem rxValidate_of_eq (hc : crc16 p = crc) (s : State) : rxValidate p crc s = .ok p { s with crc := crc16 p } :=
  if_pos hc

theorem decTelemetry_of_ok {m : Telem} (h : telemetryOf s.params p = .ok m) :
    decTelemetry p s = .ok m { s with telem := some m, tvalid := true } := by
  rw [decTelemetry, h]
  rfl

theorem decTelemetry_of_error (h : telemetryOf s.params p = .error e) : decTelemetry p s = .raised e s := by
  rw [decTelemetry, h]
  rfl

/-- A mismatch ends either request; there is no further search. -/
theorem endReceive_of_ne {r : Receiver} (hr : r ≠ .rxReceive) (hc : crc16 p ≠ crc) (s : State) :
    endReceive r p crc s = .next (endedWith 4 (.crcMismatch crc (crc16 p)) { s with crc := crc16 p }) := by
  cases r with
  | rxReceive => exact absurd rfl hr
  | requestTelemetry | scanForControllers =>
    rw [endReceive, rxValidate_of_ne hc]
    rfl

section
variable (hc : crc16 p = crc)
include hc

theorem endReceive_requestTelemetry (s : State) :
    endReceive .requestTelemetry p crc s = (decTelemetry p { s with crc := crc16 p }).finish .telem := by
  rw [endReceive, rxValidate_of_eq hc]
  rfl

theorem endReceive_requestTelemetry_of_ok {m : Telem} (h : telemetryOf s.params p = .ok m) :
    endReceive .requestTelemetry p crc s = .next (recordReturned m p s) := by
  rw [endReceive_requestTelemetry hc, decTelemetry_of_ok (s := { s with crc := crc16 p }) h]
  rfl

theorem endReceive_requestTelemetry_of_error (h : telemetryOf s.params p = .error e) :
    endReceive .requestTelemetry p crc s = .next (endedWith (errorCode e) e { s with crc := crc16 p }) := by
  rw [endReceive_requestTelemetry hc, decTelemetry_of_error (s := { s with crc := crc16 p }) h]
  rfl

theorem endReceive_scanForControllers (s : State) : endReceive .scanForControllers p crc s =
    (callPure (scanReplyOf s.params p) { s with crc := crc16 p }).finish .addrs := by
  rw [endReceive, rxValidate_of_eq hc]
  rfl

theorem endReceive_scanForControllers_of_ok {l : List Byte} (h : scanReplyOf s.params p = .ok l) :
    endReceive .scanForControllers p crc s = .next (addrsReturned l p s) := by
  rw [endReceive_scanForControllers hc, h]
  rfl

theorem endReceive_scanForControllers_of_error (h : scanReplyOf s.params p = .error e) :
    endReceive .scanForControllers p crc s = .next (endedWith (errorCode e) e { s with crc := crc16 p }) := by
  rw [endReceive_scanForControllers hc, h]
  rfl

end

end

/-- Settles O55: the validator's check comes first, then the decoder's. -/
theorem requestEndsOnItsFirstFrame : Obligations.RequestEndsOnItsFirstFrame := by
  unfold Obligations.RequestEndsOnItsFirstFrame
  exact fun s p c => ⟨fun hc => ⟨endReceive_of_ne (r := .requestTelemetry) nofun hc s,
      endReceive_of_ne (r := .scanForControllers) nofun hc s⟩, fun hc =>
    ⟨fun _ => endReceive_requestTelemetry_of_ok hc, fun _ => endReceive_requestTelemetry_of_error hc,
      fun _ => endReceive_scanForControllers_of_ok hc, fun _ => endReceive_scanForControllers_of_error hc⟩⟩

end Sys2Proof.Machine
end

section
/-! PROOFS. A whole request among the acts of its environment (45_host_operations.md R250 to R253): it is presented, the
block reads its deadline, and from there it is a receive whose last byte ends it. -/
namespace Sys2Proof.Machine

theorem Runs.trans {m n : Nat} {s t u : State} (hst : Runs m s t) (htu : Runs n t u) : Runs (m + n) s u :=
  (run_add m n s t hst).trans htu

theorem OnlyReceiverMoved.deadline_eq {s t : State} (h : OnlyReceiverMoved s t) : t.deadline = s.deadline := by
  rw [h]

/-! ## The receive of a request -/

/-- Behind bytes that the search consumes exactly, all bytes of a frame are taken, the stop marker with the effect `f` that
the end of the receive has. -/
theorem takesAll_endingFrame {d : Nat} {r : Receiver} {s : State} (h : Receives d r .seekStart s)
    (hv : s.params.valid = true) {g p : List Byte} (hg : SeeksThrough s.params g)
    (hp : p.length ≤ s.params.rxMaxPayload) {f : State → State}
    (hend : ∀ t : State, t.params = s.params → ∀ q c l,
      endReceive r p (crc16 p) (t.within q c l) = .next ((f t).within q c l)) :
    ∃ t, OnlyReceiverMoved s t ∧ t.rxst = .idle ∧ TakesAll d s (g ++ frame s.params p) (f t) := by
  obtain ⟨a, htakes, hmoved, ha⟩ := reaches_firstFrame h hv hg hp
  obtain ⟨t, hmoved', hidle, hstop⟩ := blockStep_stop ha
  rw [hmoved.params_eq] at hstop
  have hall := hmoved.trans hmoved'
  have hlast : Takes d a s.params.markerStop (f t) :=
    ⟨ha.busy, fun q c l hc => (hstop q c l hc).trans (hend t hall.params_eq q c l)⟩
  refine ⟨t, hall, hidle, ?_⟩
  simpa [frame] using htakes.append (.cons hlast (.nil _))

theorem armed_receives (d : Nat) (r : Receiver) (s : State) : Receives d r .seekStart (armed d r s) := ⟨rfl, rfl, rfl⟩

/-! ## The acts around a request -/

/-- The acts behind a presented request: `pre` before the block reads the deadline; the block's turn to read it, as an act
or as its own step; `acts` among the steps over the queue; `k` more steps, the block's own; and `more` to come. -/
structure RequestActs (pre mid acts more : List Event) (k : Nat) : Prop where
  before : receiverActs pre
  before_unread : blockStepsIn pre = 0
  among : receiverActs acts
  turn : mid = .blockStep :: (acts ++ more) ∨ (acts = [] ∧ mid = more ∧ blockGoesOn more)
  alone : k = 0 ∨ blockGoesOn more

section
variable {s u : State} {r : Receiver} {pre mid acts more : List Event} {k : Nat} (hacts : RequestActs pre mid acts more k)
include hacts

/-- The block's turn reads the deadline of a sent request. -/
theorem RequestActs.runs_armed (hv : s.params.valid = true) (ht : s.transportPresent = true) (ha : s.activity = .sent r)
    (q : List Byte) (c : Nat) :
    Runs 1 (s.within q c mid) ((armed (c + s.params.rxTimeout) r s).within q c (acts ++ more)) := by
  have hstep (l : List Event) : blockStep (s.within q c l) = .next ((armed (c + s.params.rxTimeout) r s).within q c l) :=
    blockStep_sent (s := s.within q c l) ht ha
  rcases hacts.turn with rfl | ⟨rfl, rfl, hgoes⟩
  · exact .blockAct hv (hstep _) (.zero _)
  · exact .blockAlone hv hgoes (by rw [ha]; exact nofun) (hstep _) (.zero _)

/-- A request whose receive takes the bytes `bs`, which stand in the queue when its deadline is read. -/
theorem RequestActs.runs (hv : s.params.valid = true) (ht : s.transportPresent = true) (ha : s.activity = .sent r)
    {q bs h : List Byte} {c : Nat} (hq : q ++ arrivedIn pre = bs ++ h) (htime : advancedIn acts < s.params.rxTimeout)
    (htakes : TakesAll (c + advancedIn pre + s.params.rxTimeout) (armed (c + advancedIn pre + s.params.rxTimeout) r s) bs u)
    (hcount : blockStepsIn acts + k = bs.length) :
    Runs (pre.length + 1 + (acts.length + k)) (s.within q c (pre ++ mid))
      (u.within (h ++ arrivedIn acts) (c + advancedIn pre + advancedIn acts) more) := by
  have hbefore : Runs pre.length (s.within q c (pre ++ mid)) (s.within (bs ++ h) (c + advancedIn pre) mid) :=
    hq ▸ (TakesAll.nil (d := c + advancedIn pre + 1) s).runs hv hacts.before (.inl rfl) hacts.before_unread
      (Nat.lt_succ_self _) q
  exact (hbefore.trans (hacts.runs_armed hv ht ha _ _)).trans
    (htakes.runs hv hacts.among hacts.alone hcount (Nat.add_lt_add_left htime _) h)

/-- A request still to be presented, with a reply behind bytes that the search consumes exactly: it ends with the effect
`f` that the end of its receive has. -/
theorem RequestActs.runs_to_end (hv : s.params.valid = true) (ht : s.transportPresent = true) {w g p h : List Byte}
    (hstep : step s = .next ((requestSent r w s).within s.rxQueue s.clock (pre ++ mid)))
    (hg : SeeksThrough s.params g) (hp : p.length ≤ s.params.rxMaxPayload)
    (hq : s.rxQueue ++ arrivedIn pre = g ++ frame s.params p ++ h)
    (hcount : blockStepsIn acts + k = g.length + (frame s.params p).length) (htime : advancedIn acts < s.params.rxTimeout)
    {f : State → State} (hend : ∀ t : State, t.params = s.params → ∀ q c l,
      endReceive r p (crc16 p) (t.within q c l) = .next ((f t).within q c l)) :
    ∃ t, OnlyReceiverMoved (armed (s.clock + advancedIn pre + s.params.rxTimeout) r (requestSent r w s)) t ∧
      t.rxst = .idle ∧ core.run (1 + pre.length + 1 + acts.length + k) s =
        .next ((f t).within (h ++ arrivedIn acts) (s.clock + advancedIn pre + advancedIn acts) more) := by
  obtain ⟨t, hmoved, hidle, htakes⟩ := takesAll_endingFrame (armed_receives _ r (requestSent r w s)) hv hg hp hend
  have hruns := Runs.succ hstep (hacts.runs (s := requestSent r w s) hv ht rfl hq htime htakes
    (hcount.trans List.length_append.symm))
  rw [show pre.length + 1 + (acts.length + k) + 1 = 1 + pre.length + 1 + acts.length + k by omega] at hruns
  exact ⟨t, hmoved, hidle, hruns⟩

end

/-! ## Both requests -/

theorem decode_encode_requestTelemetry (P : Params) (a : Option Byte) :
    decode P .host (encode P (.requestTelemetry a)) = some (.requestTelemetry a, []) := by
  simpa using hostDecodeInvertsEncode P (.requestTelemetry a) [] rfl rfl

section
variable {s : State} {rest : List Event} (hv : s.params.valid = true) (ht : s.transportPresent = true)
  (hidle : s.activity = .idle)
include hv ht hidle

theorem step_requestTelemetry {a : Option Byte}
    (hs : s.schedule = .present .host (encode s.params (.requestTelemetry a)) :: rest) :
    step s = .next
      ((requestSent .requestTelemetry (requestPayload s.params a) s).within s.rxQueue s.clock rest) :=
  (stepRunsPresentedUnit s .host _ [] rest _ hv hs (fun _ => hidle) (decode_encode_requestTelemetry s.params a)).trans
    (exec_requestTelemetry (s := { s with schedule := rest }) ht a)

theorem step_scanForControllers (hs : s.schedule = .present .host [0x51] :: rest) :
    step s = .next ((requestSent .scanForControllers (scanPayload s.params) s).within s.rxQueue s.clock rest) :=
  (stepRunsPresentedUnit s .host _ [] rest .scanForControllers hv hs (fun _ => hidle) rfl).trans
    (exec_scanForControllers (s := { s with schedule := rest }) ht)

end

/-- Settles O56: the receive of the request takes all bytes up to the end of the reply, whose record it returns. -/
theorem telemetryRequestCompletes : Obligations.TelemetryRequestCompletes := by
  unfold Obligations.TelemetryRequestCompletes
  intro s a k g p h m pre mid acts more hv ht hidle hsched hpre hunread hacts hturn halone hcount htime hp hm hg hq
  have hend (t : State) (hparams : t.params = s.params) (q : List Byte) (c : Nat) (l : List Event) :
      endReceive .requestTelemetry p (crc16 p) (t.within q c l) = .next ((recordReturned m p t).within q c l) :=
    endReceive_requestTelemetry_of_ok (s := t.within q c l) rfl ((congrArg (telemetryOf · p) hparams).trans hm)
  obtain ⟨t, hmoved, hdone, hruns⟩ := RequestActs.runs_to_end ⟨hpre, hunread, hacts, hturn, halone⟩ hv ht
    (step_requestTelemetry hv ht hidle hsched) hg hp hq hcount htime hend
  refine ⟨_, hruns, rfl, rfl, rfl, rfl, rfl, rfl, rfl, hdone, hmoved.deadline_eq, rfl,
    txCountOf (frame s.params (requestPayload s.params a)) s, ?_⟩
  cases a <;> exact hmoved.txStream_eq

/-- Settles O57: the same receive, whose end returns the addresses behind the identifier and leaves the record. -/
theorem scanCompletes : Obligations.ScanCompletes := by
  unfold Obligations.ScanCompletes
  intro s k g h l pre mid acts more hv ht hidle hsched hpre hunread hacts hturn halone hcount htime hp hg hq
  have hend (t : State) (hparams : t.params = s.params) (q : List Byte) (c : Nat) (e : List Event) :
      endReceive .scanForControllers (s.params.idPingCan :: l) (crc16 (s.params.idPingCan :: l)) (t.within q c e) =
        .next ((addrsReturned l (s.params.idPingCan :: l) t).within q c e) :=
    endReceive_scanForControllers_of_ok (s := t.within q c e) rfl
      ((congrArg (scanReplyOf · _) hparams).trans (scanReplyOf_of_id (fun _ => rfl) l))
  obtain ⟨t, hmoved, -, hruns⟩ := RequestActs.runs_to_end ⟨hpre, hunread, hacts, hturn, halone⟩ hv ht
    (step_scanForControllers hv ht hidle hsched) hg (p := s.params.idPingCan :: l) hp hq hcount htime hend
  obtain ⟨htelem, hvalid⟩ := hmoved.record
  exact ⟨_, hruns, rfl, rfl, htelem, hvalid, rfl, rfl, rfl, hmoved.deadline_eq, rfl⟩

end Sys2Proof.Machine
end

section
/-! PROOFS. The errors of 60_exceptions.md R280 and R283: the code of each, and the absent transport, which the operations
that touch it report before anything else. -/
namespace Sys2Proof.Machine

theorem sendRequest_of_absent {s : State} (ht : s.transportPresent = false) (c : Except BlockError (List Byte))
    (r : Receiver) : sendRequest c r s = .next (endedWith 6 .transportUnavailable s) := by
  rw [sendRequest, needTransport, if_neg (ht ▸ Bool.false_ne_true)]
  rfl

/-- Settles O52: a request or a command checks the transport before its payload, so the payload, or the error of its
computation, does not matter. -/
theorem absentTransportIsReportedFirst : Obligations.AbsentTransportIsReportedFirst := by
  unfold Obligations.AbsentTransportIsReportedFirst
  intro s i ht hrow
  have hcommand := sendCommand_of_absent ht
  rcases hrow with ⟨p, rfl⟩ | ⟨d, rfl⟩ | ⟨a, rfl⟩ | rfl | ⟨v, a, rfl⟩ | ⟨v, a, rfl⟩ | ⟨r, a, rfl⟩ | ⟨v, a, rfl⟩ |
    ⟨x, y, p, q, a, rfl⟩ | ⟨v, e, a, rfl⟩ | ⟨a, rfl⟩
  · exact exec_frameSend_of_absent ht p
  · exact exec_rxReceive_of_absent ht d
  · exact sendRequest_of_absent ht (encGetValues s.params a) .requestTelemetry
  · exact sendRequest_of_absent ht (encScan s.params) .scanForControllers
  · exact hcommand (encSetCurrent s.params v a)
  · exact hcommand (encSetBrake s.params v a)
  · exact hcommand (encSetRpm s.params r a)
  · exact hcommand (encSetDuty s.params v a)
  · exact hcommand (encJoystick s.params x y p q a)
  · exact hcommand (encOpenloop s.params v e a)
  · exact hcommand (encStop s.params a)

/-- Settles O59: `errorCode` reads only which error it is, never the error's argument. -/
theorem statusCodesOfTheErrors : Obligations.StatusCodesOfTheErrors := by
  unfold Obligations.StatusCodesOfTheErrors
  exact ⟨rfl, fun _ => rfl, rfl, fun _ => rfl, fun _ _ => rfl, fun _ => rfl, rfl, fun _ => rfl, fun _ => rfl,
    fun _ => rfl⟩

end Sys2Proof.Machine
end

section
/-! PROOFS. The reset event of 70_reset_and_hazards.md R310 and R311. -/
namespace Sys2Proof.Machine

/-- Settles O10: by `step_reset` the step is `applyReset`, whatever operation is in progress, and the claim is its field
lemmas and `sentSinceReset_applyReset`. -/
theorem resetEventKeepsTheTransport : Obligations.ResetEventKeepsTheTransport := by
  unfold Obligations.ResetEventKeepsTheTransport
  intro s rest hv hs
  refine ⟨applyReset { s with schedule := rest }, step_reset hv hs, ?_⟩
  simp [crcInit]

end Sys2Proof.Machine
end
